-- ==== Sys2Proof/Word.lean ====
section
/-! DEFINITION. The two value widths of GB-CORE: bytes and 16-bit words. Every value of the spec is an
unsigned bit vector of a stated width (00_scope.md R10, R11). -/

namespace Sys2Proof

/-- An 8-bit value: a register of R21, a byte of memory (R33), a command code (R81). -/
abbrev Byte := BitVec 8

/-- A 16-bit value: SP, PC, a pair view, an address, a memory word, a response (R11). -/
abbrev Word := BitVec 16

end Sys2Proof
end

