-- ==== Sys2Proof/Syntax.lean ====
section
/-! DEFINITION. The request of the interface (30_encoding.md R81) and the 43 commands of R85, one
constructor per row of opcode_table.json, each with the typed operand R83 gives it. -/

namespace Sys2Proof

/-- The eight 8-bit registers (10_state.md R21), in the order of the selector table R86. -/
inductive Reg8 where
  | a | b | c | d | e | f | h | l
  deriving DecidableEq, Repr

/-- The two 16-bit pointers (R26, R27). -/
inductive Pointer where
  | sp | pc
  deriving DecidableEq, Repr

/-- The four pair views (R28). -/
inductive Pair where
  | af | bc | de | hl
  deriving DecidableEq, Repr

/-- The four flags of register F (R24). -/
inductive Flag where
  | z | n | h | c
  deriving DecidableEq, Repr

/-- A request of format CMD: the four fields of R81. -/
structure Request where
  cmd   : Byte
  addr  : Word
  wdata : Word
  image : List Byte
  deriving DecidableEq, Repr

/-- The commands of GB-CORE (R85). A field a command does not use is absent from its constructor, and
an operand has the width R83 gives it, so a value of this type is well-formed by its type. -/
inductive Instr where
  /-- RF_RESET (R190). -/
  | rfReset
  /-- MEM_RESET (R191). -/
  | memReset
  /-- REG_READ.A (R100). -/
  | regReadA
  /-- REG_READ.B (R101). -/
  | regReadB
  /-- REG_READ.C (R102). -/
  | regReadC
  /-- REG_READ.D (R103). -/
  | regReadD
  /-- REG_READ.E (R104). -/
  | regReadE
  /-- REG_READ.F (R105). -/
  | regReadF
  /-- REG_READ.H (R106). -/
  | regReadH
  /-- REG_READ.L (R107). -/
  | regReadL
  /-- REG_READ.SP (R108). -/
  | regReadSP
  /-- REG_READ.PC (R109). -/
  | regReadPC
  /-- REG_WRITE.A (R110). -/
  | regWriteA (v : Byte)
  /-- REG_WRITE.B (R111). -/
  | regWriteB (v : Byte)
  /-- REG_WRITE.C (R112). -/
  | regWriteC (v : Byte)
  /-- REG_WRITE.D (R113). -/
  | regWriteD (v : Byte)
  /-- REG_WRITE.E (R114). -/
  | regWriteE (v : Byte)
  /-- REG_WRITE.F (R115). -/
  | regWriteF (v : Byte)
  /-- REG_WRITE.H (R116). -/
  | regWriteH (v : Byte)
  /-- REG_WRITE.L (R117). -/
  | regWriteL (v : Byte)
  /-- REG_WRITE.SP (R118). -/
  | regWriteSP (v : Word)
  /-- REG_WRITE.PC (R119). -/
  | regWritePC (v : Word)
  /-- PAIR_READ.AF (R130). -/
  | pairReadAF
  /-- PAIR_READ.BC (R131). -/
  | pairReadBC
  /-- PAIR_READ.DE (R132). -/
  | pairReadDE
  /-- PAIR_READ.HL (R133). -/
  | pairReadHL
  /-- PAIR_WRITE.AF (R134). -/
  | pairWriteAF (v : Word)
  /-- PAIR_WRITE.BC (R135). -/
  | pairWriteBC (v : Word)
  /-- PAIR_WRITE.DE (R136). -/
  | pairWriteDE (v : Word)
  /-- PAIR_WRITE.HL (R137). -/
  | pairWriteHL (v : Word)
  /-- FLAG_READ.Z (R150). -/
  | flagReadZ
  /-- FLAG_READ.N (R151). -/
  | flagReadN
  /-- FLAG_READ.H (R152). -/
  | flagReadH
  /-- FLAG_READ.C (R153). -/
  | flagReadC
  /-- FLAG_WRITE.Z (R154). -/
  | flagWriteZ (b : Bool)
  /-- FLAG_WRITE.N (R155). -/
  | flagWriteN (b : Bool)
  /-- FLAG_WRITE.H (R156). -/
  | flagWriteH (b : Bool)
  /-- FLAG_WRITE.C (R157). -/
  | flagWriteC (b : Bool)
  /-- MEM_READ_BYTE (R170). -/
  | memReadByte (a : Word)
  /-- MEM_WRITE_BYTE (R171). -/
  | memWriteByte (a : Word) (v : Byte)
  /-- MEM_READ_WORD (R172). -/
  | memReadWord (a : Word)
  /-- MEM_WRITE_WORD (R173). -/
  | memWriteWord (a : Word) (v : Word)
  /-- LOAD_IMAGE (R174). -/
  | loadImage (data : List Byte)
  deriving DecidableEq, Repr

end Sys2Proof
end

