-- ==== Sys2Proof/WellFormed.lean ====
section
/-! DEFINITION. When a request is well-formed: the five named checks of 30_encoding.md R88, written with
the command codes of R85 listed one by one. The decoder (Decode.lean) reads classes and selectors instead
(R82, R86, R87); that the two agree is an obligation. -/

namespace Sys2Proof

/-- The named checks of R88. A refused request records the first failing one as its reason (R204). -/
inductive Check where
  /-- `cmd_known`: the command byte is one of the 43 codes. -/
  | cmdKnown
  /-- `addr_unused_zero`: `addr` is 0 where the command does not use it. -/
  | addrUnusedZero
  /-- `wdata_unused_zero`: `wdata` is 0 where the command does not use it. -/
  | wdataUnusedZero
  /-- `wdata_width`: no bit of `wdata` is set above an 8-bit or a boolean operand. -/
  | wdataWidth
  /-- `image_unused_empty`: `image` is empty where the command does not use it. -/
  | imageUnusedEmpty
  deriving DecidableEq, Repr

/-- The checks in the order of R204. -/
def Check.inOrder : List Check :=
  [.cmdKnown, .addrUnusedZero, .wdataUnusedZero, .wdataWidth, .imageUnusedEmpty]

/-- The codes of REG_WRITE.A to REG_WRITE.L. -/
def byteWriteCodes : List Byte := [0x20, 0x21, 0x22, 0x23, 0x24, 0x25, 0x26, 0x27]

/-- The codes of PAIR_WRITE.*. -/
def pairWriteCodes : List Byte := [0x40, 0x41, 0x42, 0x43]

/-- The codes of FLAG_WRITE.*. -/
def flagWriteCodes : List Byte := [0x60, 0x61, 0x62, 0x63]

/-- The 43 command codes of R85. -/
def knownCodes : List Byte :=
  [0x01, 0x02] ++
  [0x10, 0x11, 0x12, 0x13, 0x14, 0x15, 0x16, 0x17, 0x18, 0x19] ++
  byteWriteCodes ++ [0x28, 0x29] ++
  [0x30, 0x31, 0x32, 0x33] ++ pairWriteCodes ++
  [0x50, 0x51, 0x52, 0x53] ++ flagWriteCodes ++
  [0x70, 0x71, 0x72, 0x73, 0x74]

/-- The commands that use `addr` (R81, R88 check 2): the byte and word memory commands. -/
def addrCodes : List Byte := [0x70, 0x71, 0x72, 0x73]

/-- The commands that use `wdata` (R81, R88 check 3): REG_WRITE, PAIR_WRITE, FLAG_WRITE,
MEM_WRITE_BYTE and MEM_WRITE_WORD. -/
def wdataCodes : List Byte :=
  byteWriteCodes ++ [0x28, 0x29] ++ pairWriteCodes ++ flagWriteCodes ++ [0x71, 0x73]

/-- One check of R88 on one request. -/
def Request.passes (r : Request) : Check → Bool
  | .cmdKnown => decide (r.cmd ∈ knownCodes)
  | .addrUnusedZero => decide (r.cmd ∈ addrCodes ∨ r.addr = 0)
  | .wdataUnusedZero => decide (r.cmd ∈ wdataCodes ∨ r.wdata = 0)
  | .wdataWidth =>
      decide ((r.cmd ∈ byteWriteCodes ++ [0x71] → r.wdata.extractLsb' 8 8 = 0) ∧
        (r.cmd ∈ flagWriteCodes → r.wdata.extractLsb' 1 15 = 0))
  | .imageUnusedEmpty => decide (r.cmd = 0x74 ∨ r.image = [])

/-- A request is well-formed iff all the named checks pass (R88). -/
def Request.wellFormed (r : Request) : Bool := Check.inOrder.all r.passes

end Sys2Proof
end

