-- ==== Sys2Proof/Decode.lean ====
section
/-! DEFINITION. The decoder: total on every request, refusing by the name of the first failing check
(30_encoding.md R82, R83, R86, R87, R88, R90; 60_exceptions.md R204). Then the encoder, from the table R85,
and the numbering of a request's bits that the opcode table is read with. -/

namespace Sys2Proof

/-- `cmd[7:4]`, the class (R82). -/
def classOf (cmd : Byte) : Nat := (cmd.extractLsb' 4 4).toNat

/-- `cmd[3:0]`, the selector (R82). -/
def selOf (cmd : Byte) : Nat := (cmd.extractLsb' 0 4).toNat

/-- Which request fields a command uses, and how wide its `wdata` operand is (R81, R83). -/
inductive Shape where
  | bare | byte | word | bool | addr | addrByte | addrWord | image
  deriving DecidableEq, Repr

/-- The shape of a command, read from its class and selector (R82, R86); `none` is a reserved command
byte (R87). -/
def shapeOf (cmd : Byte) : Option Shape :=
  let sel := selOf cmd
  match classOf cmd with
  | 0 => if sel = 1 ∨ sel = 2 then some .bare else none
  | 1 => if sel < 10 then some .bare else none
  | 2 => if sel < 8 then some .byte else if sel < 10 then some .word else none
  | 3 => if sel < 4 then some .bare else none
  | 4 => if sel < 4 then some .word else none
  | 5 => if sel < 4 then some .bare else none
  | 6 => if sel < 4 then some .bool else none
  | 7 =>
      match sel with
      | 0 => some .addr
      | 1 => some .addrByte
      | 2 => some .addr
      | 3 => some .addrWord
      | 4 => some .image
      | _ => none
  | _ => none

/-- Whether the command uses `addr` (R81). -/
def Shape.usesAddr : Shape → Bool
  | .addr | .addrByte | .addrWord => true
  | .bare | .byte | .word | .bool | .image => false

/-- How many low bits of `wdata` the command's operand has (R83); the bits above must be 0, and 0 bits
means that the command does not use `wdata`. -/
def Shape.wdataBits : Shape → Nat
  | .byte | .addrByte => 8
  | .word | .addrWord => 16
  | .bool => 1
  | .bare | .addr | .image => 0

/-- Whether the command uses `image` (R81). -/
def Shape.usesImage : Shape → Bool
  | .image => true
  | .bare | .byte | .word | .bool | .addr | .addrByte | .addrWord => false

/-- The first check of R88 that the request fails, in the order of R204. -/
def firstFailed (r : Request) : Option Check :=
  match shapeOf r.cmd with
  | none => some .cmdKnown
  | some sh =>
      if sh.usesAddr = false ∧ r.addr ≠ 0 then some .addrUnusedZero
      else if sh.wdataBits = 0 ∧ r.wdata ≠ 0 then some .wdataUnusedZero
      else if r.wdata.toNat ≥ 2 ^ sh.wdataBits then some .wdataWidth
      else if sh.usesImage = false ∧ r.image ≠ [] then some .imageUnusedEmpty
      else none

/-- The 8-bit operand `wdata[7:0]` (R83). -/
def byteOperand (wdata : Word) : Byte := wdata.extractLsb' 0 8

/-- The boolean operand `wdata[0] = 1` (R83, D9). -/
def boolOperand (wdata : Word) : Bool := wdata.getLsbD 0

/-- The command of a command byte with its operands taken from the request (the table R85; R83). -/
def instrOf (r : Request) : Option Instr :=
  match r.cmd with
  | 0x01#8 => some .rfReset
  | 0x02#8 => some .memReset
  | 0x10#8 => some .regReadA
  | 0x11#8 => some .regReadB
  | 0x12#8 => some .regReadC
  | 0x13#8 => some .regReadD
  | 0x14#8 => some .regReadE
  | 0x15#8 => some .regReadF
  | 0x16#8 => some .regReadH
  | 0x17#8 => some .regReadL
  | 0x18#8 => some .regReadSP
  | 0x19#8 => some .regReadPC
  | 0x20#8 => some (.regWriteA (byteOperand r.wdata))
  | 0x21#8 => some (.regWriteB (byteOperand r.wdata))
  | 0x22#8 => some (.regWriteC (byteOperand r.wdata))
  | 0x23#8 => some (.regWriteD (byteOperand r.wdata))
  | 0x24#8 => some (.regWriteE (byteOperand r.wdata))
  | 0x25#8 => some (.regWriteF (byteOperand r.wdata))
  | 0x26#8 => some (.regWriteH (byteOperand r.wdata))
  | 0x27#8 => some (.regWriteL (byteOperand r.wdata))
  | 0x28#8 => some (.regWriteSP r.wdata)
  | 0x29#8 => some (.regWritePC r.wdata)
  | 0x30#8 => some .pairReadAF
  | 0x31#8 => some .pairReadBC
  | 0x32#8 => some .pairReadDE
  | 0x33#8 => some .pairReadHL
  | 0x40#8 => some (.pairWriteAF r.wdata)
  | 0x41#8 => some (.pairWriteBC r.wdata)
  | 0x42#8 => some (.pairWriteDE r.wdata)
  | 0x43#8 => some (.pairWriteHL r.wdata)
  | 0x50#8 => some .flagReadZ
  | 0x51#8 => some .flagReadN
  | 0x52#8 => some .flagReadH
  | 0x53#8 => some .flagReadC
  | 0x60#8 => some (.flagWriteZ (boolOperand r.wdata))
  | 0x61#8 => some (.flagWriteN (boolOperand r.wdata))
  | 0x62#8 => some (.flagWriteH (boolOperand r.wdata))
  | 0x63#8 => some (.flagWriteC (boolOperand r.wdata))
  | 0x70#8 => some (.memReadByte r.addr)
  | 0x71#8 => some (.memWriteByte r.addr (byteOperand r.wdata))
  | 0x72#8 => some (.memReadWord r.addr)
  | 0x73#8 => some (.memWriteWord r.addr r.wdata)
  | 0x74#8 => some (.loadImage r.image)
  | _ => none

/-- Decoding: a command, or the name of the first failing check (R88, R90, R204). It reads no state. -/
def decode (r : Request) : Except Check Instr :=
  match firstFailed r with
  | some c => .error c
  | none =>
      match instrOf r with
      | some i => .ok i
      | none => .error .cmdKnown

/-- A request whose operand fields are all unused. -/
def bareRequest (cmd : Byte) : Request := ⟨cmd, 0, 0, []⟩

/-- A request whose only operand is in `wdata`. -/
def dataRequest (cmd : Byte) (wdata : Word) : Request := ⟨cmd, 0, wdata, []⟩

/-- A boolean as a `wdata` value (R11, R83). -/
def boolData (b : Bool) : Word := if b then 0x0001#16 else 0x0000#16

/-- The one request of a command (R85, R83; every field it does not use is zero or empty, R88). -/
def encode : Instr → Request
  | .rfReset => bareRequest 0x01#8
  | .memReset => bareRequest 0x02#8
  | .regReadA => bareRequest 0x10#8
  | .regReadB => bareRequest 0x11#8
  | .regReadC => bareRequest 0x12#8
  | .regReadD => bareRequest 0x13#8
  | .regReadE => bareRequest 0x14#8
  | .regReadF => bareRequest 0x15#8
  | .regReadH => bareRequest 0x16#8
  | .regReadL => bareRequest 0x17#8
  | .regReadSP => bareRequest 0x18#8
  | .regReadPC => bareRequest 0x19#8
  | .regWriteA v => dataRequest 0x20#8 (v.setWidth 16)
  | .regWriteB v => dataRequest 0x21#8 (v.setWidth 16)
  | .regWriteC v => dataRequest 0x22#8 (v.setWidth 16)
  | .regWriteD v => dataRequest 0x23#8 (v.setWidth 16)
  | .regWriteE v => dataRequest 0x24#8 (v.setWidth 16)
  | .regWriteF v => dataRequest 0x25#8 (v.setWidth 16)
  | .regWriteH v => dataRequest 0x26#8 (v.setWidth 16)
  | .regWriteL v => dataRequest 0x27#8 (v.setWidth 16)
  | .regWriteSP v => dataRequest 0x28#8 v
  | .regWritePC v => dataRequest 0x29#8 v
  | .pairReadAF => bareRequest 0x30#8
  | .pairReadBC => bareRequest 0x31#8
  | .pairReadDE => bareRequest 0x32#8
  | .pairReadHL => bareRequest 0x33#8
  | .pairWriteAF v => dataRequest 0x40#8 v
  | .pairWriteBC v => dataRequest 0x41#8 v
  | .pairWriteDE v => dataRequest 0x42#8 v
  | .pairWriteHL v => dataRequest 0x43#8 v
  | .flagReadZ => bareRequest 0x50#8
  | .flagReadN => bareRequest 0x51#8
  | .flagReadH => bareRequest 0x52#8
  | .flagReadC => bareRequest 0x53#8
  | .flagWriteZ b => dataRequest 0x60#8 (boolData b)
  | .flagWriteN b => dataRequest 0x61#8 (boolData b)
  | .flagWriteH b => dataRequest 0x62#8 (boolData b)
  | .flagWriteC b => dataRequest 0x63#8 (boolData b)
  | .memReadByte a => ⟨0x70#8, a, 0, []⟩
  | .memWriteByte a v => ⟨0x71#8, a, v.setWidth 16, []⟩
  | .memReadWord a => ⟨0x72#8, a, 0, []⟩
  | .memWriteWord a v => ⟨0x73#8, a, v, []⟩
  | .loadImage data => ⟨0x74#8, 0, 0, data⟩

/-- The request of a number of `nbits` bits: `cmd` is bits 7..0 as the opcode table numbers them, then
`addr` bits 23..8, `wdata` bits 39..24, and each further whole byte is a byte of `image`. Bits at `nbits`
and above are 0. DESIGN CHOICE (log 8): the spec's fields are separate and have no common numbering; the
table's rows have the 8 bits of `cmd` only. -/
def tableRequest (nbits w : Nat) : Request :=
  let bits := w % 2 ^ nbits
  { cmd := BitVec.ofNat 8 bits
    addr := BitVec.ofNat 16 (bits / 2 ^ 8)
    wdata := BitVec.ofNat 16 (bits / 2 ^ 24)
    image := (List.range ((nbits - 40) / 8)).map fun k => BitVec.ofNat 8 (bits / 2 ^ (40 + 8 * k)) }

/-- The instruction the decoder reads from a table word (the host's name). -/
def decodeTableWord (nbits w : Nat) : Option Instr :=
  match decode (tableRequest nbits w) with
  | .ok i => some i
  | .error _ => none

end Sys2Proof
end

