-- ==== Sys2Proof/Config.lean ====
section
/-! DEFINITION. The parameters of GB-CORE (00_scope.md R8, R9). The spec leaves no result undefined
(93_implementation_defined.md), so there is no free value here. -/

namespace Sys2Proof

/-- `F_WRITE_MASK`: the mask of a direct write of register F. DESIGN CHOICE of the spec itself (R9,
92_eei_decisions.md D7), log 5: unsafe if the source's eventual setter does not mask. -/
def Config.fWriteMask : Byte := 0xF0#8

/-- `AF_LOW_MASK`: the mask of the F byte of a write of pair AF (R8, R134). -/
def Config.afLowMask : Byte := 0xF0#8

/-- `MEM_SIZE`: the number of bytes of the memory array (R8, R33). -/
def Config.memSize : Nat := 65536

/-- `LOAD_WINDOW`: how many bytes LOAD_IMAGE copies at most, the window 0x0000 to 0x7FFF (R8, R61). -/
def Config.loadWindow : Nat := 32768

/-- What an address that the memory list does not hold reads as: the reset contents of every byte,
which the spec states (R36). -/
def Config.unlistedByte : Byte := 0x00#8

/-- `MULTI_REQUESTER`: whether more than one agent may issue commands (R9, R64, R210; D11), log 6. -/
def Config.multiRequester : Bool := false

end Sys2Proof
end

