-- ==== Sys2Proof/Machine/State.lean ====
section
/-! DEFINITION. The state of GB-CORE (10_state.md R20), its interface ports and the refusal mark
(30_encoding.md R80 to R87), and the state after power-on (R35, R36, R230). -/

namespace Sys2Proof.Machine

/-- The RegisterFile (R20, R21, R26, R27): eight 8-bit registers and two 16-bit pointers. The pair and flag
views are computed from it and stored nowhere (R24, R28). -/
structure RegisterFile where
  a  : Byte
  b  : Byte
  c  : Byte
  d  : Byte
  e  : Byte
  f  : Byte
  h  : Byte
  l  : Byte
  sp : Word
  pc : Word
  deriving DecidableEq, Repr

/-- The MemoryBus array (R33) as (address, byte) cells in one canonical form, `Memory.wf`. An address with
no cell reads `Config.unlistedByte`. -/
abbrev Memory := List Host.Cell

/-- The canonical form: addresses strictly rising, each inside the 65536-byte array (R33), and no cell
equal to what an unlisted address reads as. -/
abbrev Memory.wf (m : Memory) : Prop :=
  m.Pairwise (fun x y => x.1 < y.1) ∧ ∀ x ∈ m, x.1 < Config.memSize ∧ x.2 ≠ Config.unlistedByte

/-- The whole state of one GB-CORE block (R39: a second block is a second value). `rf` and `mem` are the
spec's state (R20). -/
structure State where
  /-- The RegisterFile. -/
  rf       : RegisterFile
  /-- The MemoryBus. -/
  mem      : Memory
  /-- The request port (R80, R81): what the requester has still to issue, oldest first. The model's own
  field (log 1). -/
  requests : List Request
  /-- The response port (R84): `none`, or the 16-bit `rdata` of the last request performed. The model's own
  field (log 3). -/
  response : Option Word
  /-- The sticky refusal mark (R87, R202, R204): the reason of every refused request, oldest first. It is set
  when it is not empty (log 4). -/
  refusals : List Check
  deriving DecidableEq, Repr

/-- The faults of GB-CORE: none. "GB-CORE raises no exception" (60_exceptions.md R200, R201, R205), so no
constructor exists and nothing raises one. Safe: no claim can rest on a fault (log 11). -/
inductive Fault where
  deriving DecidableEq, Repr

/-- Why an instruction has no meaning in the model. A request that the SPEC refuses is not one of these:
it has the effect R87 gives it (`State.refuse`). -/
inductive Refusal where
  /-- Raised only by an arm of `exec` whose instruction has no meaning yet; no arm does. Safe: the model
  stops where the hardware goes on. -/
  | notModelled (mnemonic : String)
  deriving DecidableEq, Repr

/-- The RegisterFile after power-on or RF_RESET (R35, R190): every field zero. -/
def RegisterFile.reset : RegisterFile :=
  { a := 0x00#8, b := 0x00#8, c := 0x00#8, d := 0x00#8, e := 0x00#8, f := 0x00#8, h := 0x00#8, l := 0x00#8
    sp := 0x0000#16, pc := 0x0000#16 }

/-- The machine after power-on (R230): registers zero (R35), every byte of memory 0x00 (R36), the refusal
mark clear; no request pending and no response given (DESIGN CHOICE, log 1 and log 3). -/
def State.reset : State :=
  { rf := RegisterFile.reset, mem := [], requests := [], response := none, refusals := [] }

end Sys2Proof.Machine
end

