-- ==== Sys2Proof/Machine/Flags.lean ====
section
/-! DEFINITION. The four flags as single-bit views of register F (10_state.md R24; 42_flags.md R150 to R157).
GB-CORE computes no flag from a result (R25, R160), so there is nothing else to compute. -/

namespace Sys2Proof.Machine

/-- The bit of F a flag is (R8, R24). -/
def flagBit : Flag → Nat
  | .z => 7
  | .n => 6
  | .h => 5
  | .c => 4

/-- The value OR-ed into F to set a flag (R154 to R157). -/
def flagSetMask : Flag → Byte
  | .z => 0x80#8
  | .n => 0x40#8
  | .h => 0x20#8
  | .c => 0x10#8

/-- The value AND-ed into F to clear a flag (R154 to R157). -/
def flagClearMask : Flag → Byte
  | .z => 0x7F#8
  | .n => 0xBF#8
  | .h => 0xDF#8
  | .c => 0xEF#8

/-- Whether a flag is true in a value of F: its bit is 1 (R24, R150 to R153). -/
def flagOf (x : Flag) (f : Byte) : Bool := f.getLsbD (flagBit x)

/-- F with one flag set or cleared (R154 to R157). -/
def withFlag (x : Flag) (on : Bool) (f : Byte) : Byte :=
  if on then f ||| flagSetMask x else f &&& flagClearMask x

end Sys2Proof.Machine
end

