-- ==== Sys2Proof/Machine/Operands.lean ====
section
/-! DEFINITION. How values are put together and taken apart: zero-extension of a response (R84), the halves
of a 16-bit value (R10), the pair and word concatenations (R11, R28, R55), the address after an address (R52),
and the masks of register F (R115, R134). -/

namespace Sys2Proof.Machine

/-- `zext_16` of a byte (R11, R84). -/
def zext16 (v : Byte) : Word := v.setWidth 16

/-- `zext_16` of a flag: 0x0001 for true, 0x0000 for false (R11, R84). -/
def flagData (b : Bool) : Word := if b then 0x0001#16 else 0x0000#16

/-- The high byte `v[15:8]` (R10). -/
def highByte (v : Word) : Byte := v.extractLsb' 8 8

/-- The low byte `v[7:0]` (R10). -/
def lowByte (v : Word) : Byte := v.extractLsb' 0 8

/-- `(zext_16(hi) << 8) | zext_16(lo)`, that is the concatenation of the two whole bytes, `hi` in the high bits
(R11, R55, R130, R141). -/
def joinBytes (hi lo : Byte) : Word := (zext16 hi <<< 8) ||| zext16 lo

/-- `next(addr)`: the address after it, modulo 65536 (R52). -/
def nextAddr (a : Word) : Word := a + 1#16

/-- The 8-bit register in bits 15:8 of a pair (R28). -/
def pairHigh : Pair → Reg8
  | .af => .a
  | .bc => .b
  | .de => .d
  | .hl => .h

/-- The 8-bit register in bits 7:0 of a pair (R28). -/
def pairLow : Pair → Reg8
  | .af => .f
  | .bc => .c
  | .de => .e
  | .hl => .l

/-- What REG_WRITE of an 8-bit register stores: the value, masked for F only (R110 to R117). -/
def regWriteByte : Reg8 → Byte → Byte
  | .f, v => v &&& Config.fWriteMask
  | .a, v | .b, v | .c, v | .d, v | .e, v | .h, v | .l, v => v

/-- What PAIR_WRITE stores in the pair's low register: the low byte, masked for AF only (R29, R134 to R137). -/
def pairWriteLow : Pair → Word → Byte
  | .af, v => lowByte v &&& Config.afLowMask
  | .bc, v | .de, v | .hl, v => lowByte v

end Sys2Proof.Machine
end

