-- ==== Sys2Proof/Machine/Ops.lean ====
section
/-! DEFINITION. The named operations over registers, memory and the ports that every meaning is built from.
The spec describes no exception entry and no return from one (60_exceptions.md R200, R205), so there is none
here; what a refused request does (R87, R202) is `State.refuse`. -/

namespace Sys2Proof.Machine

/-- `R8[r]` (R12). -/
def RegisterFile.get (rf : RegisterFile) : Reg8 → Byte
  | .a => rf.a
  | .b => rf.b
  | .c => rf.c
  | .d => rf.d
  | .e => rf.e
  | .f => rf.f
  | .h => rf.h
  | .l => rf.l

/-- `R8[r] <- v` (R12): the raw storage of one register; the masks of F are in Operands.lean. -/
def RegisterFile.set (rf : RegisterFile) (r : Reg8) (v : Byte) : RegisterFile :=
  match r with
  | .a => { rf with a := v }
  | .b => { rf with b := v }
  | .c => { rf with c := v }
  | .d => { rf with d := v }
  | .e => { rf with e := v }
  | .f => { rf with f := v }
  | .h => { rf with h := v }
  | .l => { rf with l := v }

/-- `SP` or `PC` (R12). -/
def RegisterFile.getPointer (rf : RegisterFile) : Pointer → Word
  | .sp => rf.sp
  | .pc => rf.pc

/-- `SP <- v` or `PC <- v` (R12). -/
def RegisterFile.setPointer (rf : RegisterFile) (p : Pointer) (v : Word) : RegisterFile :=
  match p with
  | .sp => { rf with sp := v }
  | .pc => { rf with pc := v }

/-- The pair view: the first-named register in bits 15:8, the second in bits 7:0 (R28). -/
def RegisterFile.getPair (rf : RegisterFile) (p : Pair) : Word :=
  joinBytes (rf.get (pairHigh p)) (rf.get (pairLow p))

/-- A pair write: exactly the two constituent registers, the F byte of AF masked (R29). -/
def RegisterFile.setPair (rf : RegisterFile) (p : Pair) (v : Word) : RegisterFile :=
  (rf.set (pairHigh p) (highByte v)).set (pairLow p) (pairWriteLow p v)

/-- `M[n]` of the array, n an address as a number. -/
def Memory.byteAt : Memory → Nat → Byte
  | [], _ => Config.unlistedByte
  | x :: m, n => if x.1 = n then x.2 else Memory.byteAt m n

/-- The memory without a cell at address n. -/
def Memory.forget (m : Memory) (n : Nat) : Memory := m.filter fun x => x.1 ≠ n

/-- The memory with a cell put before the first cell of a greater address. -/
def Memory.place : Memory → Host.Cell → Memory
  | [], x => [x]
  | y :: m, x => if x.1 < y.1 then x :: y :: m else y :: Memory.place m x

/-- `M[n] <- v`, keeping the canonical form: the value an unlisted address reads as is not listed. -/
def Memory.setByte (m : Memory) (n : Nat) (v : Byte) : Memory :=
  if v = Config.unlistedByte then m.forget n else (m.forget n).place (n, v)

/-- The cells of a byte sequence that lies at address n and up. -/
def Memory.imageCells : Nat → List Byte → Memory
  | _, [] => []
  | n, v :: vs =>
      if v = Config.unlistedByte then Memory.imageCells (n + 1) vs
      else (n, v) :: Memory.imageCells (n + 1) vs

/-- LOAD_IMAGE's copy (R174): the first min(L, 32768) bytes of the image at address 0 and up, every other
byte as before. The order of the byte writes is unobservable (R13, D17; log 10), so they are made at once. -/
def Memory.load (m : Memory) (data : List Byte) : Memory :=
  let copied := data.take Config.loadWindow
  Memory.imageCells 0 copied ++ m.filter fun x => copied.length ≤ x.1

/-- `MemRead(a, 1)` (R55). -/
def State.readByte (s : State) (a : Word) : Byte := s.mem.byteAt a.toNat

/-- `MemRead(a, 2)`: the low byte at a, the high byte at next(a) (R53, R55). -/
def State.readWord (s : State) (a : Word) : Word :=
  joinBytes (s.readByte (nextAddr a)) (s.readByte a)

/-- `MemWrite(a, 1, v)` (R56). -/
def State.writeByte (s : State) (a : Word) (v : Byte) : State :=
  { s with mem := s.mem.setByte a.toNat v }

/-- `MemWrite(a, 2, v)`: the low byte at a, then the high byte at next(a) (R56). -/
def State.writeWord (s : State) (a : Word) (v : Word) : State :=
  (s.writeByte a (lowByte v)).writeByte (nextAddr a) (highByte v)

/-- `respond(v)`: the value is on the response port (R12, R84). -/
def State.respond (s : State) (v : Word) : State := { s with response := some v }

/-- `respond(none)`: no data is on the response port (R12, R84). -/
def State.respondNone (s : State) : State := { s with response := none }

/-- `refuse(reason)`: GB-CORE's state is unchanged, the response is none, and the sticky mark records the
reason (R12, R87, R202). Log 4: the run goes on (V-E11), and every reason is kept. -/
def State.refuse (s : State) (reason : Check) : State :=
  { s with response := none, refusals := s.refusals ++ [reason] }

/-- The oldest pending request and the state with it taken off the request port (R80). -/
def State.takeRequest (s : State) : Option (Request × State) :=
  match s.requests with
  | [] => none
  | r :: rest => some (r, { s with requests := rest })

/-- The state with a request on the request port as the very next one to be performed (R80). -/
def State.issue (s : State) (r : Request) : State := { s with requests := r :: s.requests }

/-- What happens while no request is pending: nothing (DEDUCED from R37, R38 and R80, log 2). -/
def State.idle (s : State) : State := s

end Sys2Proof.Machine
end

