-- ==== Sys2Proof/Machine/FlagCommands.lean ====
section
/-! DEFINITION. The flag commands (42_flags.md): FLAG_READ and FLAG_WRITE of Z, N, H and C. -/

namespace Sys2Proof.Machine

/-- FLAG_READ: the response is the flag's bit of F, and nothing else changes (R150 to R153). -/
def flagRead (x : Flag) (s : State) : State := s.respond (flagData (flagOf x s.rf.f))

/-- FLAG_WRITE: one bit of F (R154 to R157). -/
def flagWrite (x : Flag) (on : Bool) (s : State) : State :=
  { s with rf := { s.rf with f := withFlag x on s.rf.f } }.respondNone

/-- FLAG_READ.Z (R150). -/
def execFlagReadZ (s : State) : Host.Outcome State Fault Refusal := .next (flagRead .z s)

/-- FLAG_READ.N (R151). -/
def execFlagReadN (s : State) : Host.Outcome State Fault Refusal := .next (flagRead .n s)

/-- FLAG_READ.H (R152). -/
def execFlagReadH (s : State) : Host.Outcome State Fault Refusal := .next (flagRead .h s)

/-- FLAG_READ.C (R153). -/
def execFlagReadC (s : State) : Host.Outcome State Fault Refusal := .next (flagRead .c s)

/-- FLAG_WRITE.Z (R154). -/
def execFlagWriteZ (b : Bool) (s : State) : Host.Outcome State Fault Refusal := .next (flagWrite .z b s)

/-- FLAG_WRITE.N (R155). -/
def execFlagWriteN (b : Bool) (s : State) : Host.Outcome State Fault Refusal := .next (flagWrite .n b s)

/-- FLAG_WRITE.H (R156). -/
def execFlagWriteH (b : Bool) (s : State) : Host.Outcome State Fault Refusal := .next (flagWrite .h b s)

/-- FLAG_WRITE.C (R157). -/
def execFlagWriteC (b : Bool) (s : State) : Host.Outcome State Fault Refusal := .next (flagWrite .c b s)

end Sys2Proof.Machine
end

