-- ==== Sys2Proof/Machine/MemoryCommands.lean ====
section
/-! DEFINITION. The memory commands (43_memory_ops.md). The effective address is the request's `addr`; no
memory command reads or writes a register (00_scope.md R2). -/

namespace Sys2Proof.Machine

/-- MEM_READ_BYTE (R170). -/
def execMemReadByte (a : Word) (s : State) : Host.Outcome State Fault Refusal :=
  .next (s.respond (zext16 (s.readByte a)))

/-- MEM_WRITE_BYTE (R171). -/
def execMemWriteByte (a : Word) (v : Byte) (s : State) : Host.Outcome State Fault Refusal :=
  .next (s.writeByte a v).respondNone

/-- MEM_READ_WORD (R172). -/
def execMemReadWord (a : Word) (s : State) : Host.Outcome State Fault Refusal :=
  .next (s.respond (s.readWord a))

/-- MEM_WRITE_WORD (R173). -/
def execMemWriteWord (a : Word) (v : Word) (s : State) : Host.Outcome State Fault Refusal :=
  .next (s.writeWord a v).respondNone

/-- LOAD_IMAGE (R174): a silent clamp for every length of the image, never an error (R201). -/
def execLoadImage (data : List Byte) (s : State) : Host.Outcome State Fault Refusal :=
  .next { s with mem := s.mem.load data }.respondNone

end Sys2Proof.Machine
end

