-- ==== Sys2Proof/Machine/Pairs.lean ====
section
/-! DEFINITION. The pair-view commands (41_pair_views.md): PAIR_READ and PAIR_WRITE of AF, BC, DE and HL. -/

namespace Sys2Proof.Machine

/-- PAIR_READ: the response is the 16-bit pair, and nothing else changes (R130 to R133). -/
def pairRead (p : Pair) (s : State) : State := s.respond (s.rf.getPair p)

/-- PAIR_WRITE: exactly the pair's two registers (R134 to R137). -/
def pairWrite (p : Pair) (v : Word) (s : State) : State :=
  { s with rf := s.rf.setPair p v }.respondNone

/-- PAIR_READ.AF (R130). -/
def execPairReadAF (s : State) : Host.Outcome State Fault Refusal := .next (pairRead .af s)

/-- PAIR_READ.BC (R131). -/
def execPairReadBC (s : State) : Host.Outcome State Fault Refusal := .next (pairRead .bc s)

/-- PAIR_READ.DE (R132). -/
def execPairReadDE (s : State) : Host.Outcome State Fault Refusal := .next (pairRead .de s)

/-- PAIR_READ.HL (R133). -/
def execPairReadHL (s : State) : Host.Outcome State Fault Refusal := .next (pairRead .hl s)

/-- PAIR_WRITE.AF (R134), with the F byte masked. -/
def execPairWriteAF (v : Word) (s : State) : Host.Outcome State Fault Refusal := .next (pairWrite .af v s)

/-- PAIR_WRITE.BC (R135). -/
def execPairWriteBC (v : Word) (s : State) : Host.Outcome State Fault Refusal := .next (pairWrite .bc v s)

/-- PAIR_WRITE.DE (R136). -/
def execPairWriteDE (v : Word) (s : State) : Host.Outcome State Fault Refusal := .next (pairWrite .de v s)

/-- PAIR_WRITE.HL (R137). -/
def execPairWriteHL (v : Word) (s : State) : Host.Outcome State Fault Refusal := .next (pairWrite .hl v s)

end Sys2Proof.Machine
end

