-- ==== Sys2Proof/Machine/Registers.lean ====
section
/-! DEFINITION. The register access commands (40_register_access.md): REG_READ and REG_WRITE of the eight
8-bit registers and of SP and PC. Plain storage; only F is masked when written. -/

namespace Sys2Proof.Machine

/-- REG_READ of an 8-bit register: the response is its value zero-extended, and nothing else changes (R100 to
R107). -/
def regRead (r : Reg8) (s : State) : State := s.respond (zext16 (s.rf.get r))

/-- REG_READ of a pointer: the response is its 16 bits (R108, R109). -/
def pointerRead (p : Pointer) (s : State) : State := s.respond (s.rf.getPointer p)

/-- REG_WRITE of an 8-bit register (R110 to R117). -/
def regWrite (r : Reg8) (v : Byte) (s : State) : State :=
  { s with rf := s.rf.set r (regWriteByte r v) }.respondNone

/-- REG_WRITE of a pointer (R118, R119). -/
def pointerWrite (p : Pointer) (v : Word) (s : State) : State :=
  { s with rf := s.rf.setPointer p v }.respondNone

/-- REG_READ.A (R100). -/
def execRegReadA (s : State) : Host.Outcome State Fault Refusal := .next (regRead .a s)

/-- REG_READ.B (R101). -/
def execRegReadB (s : State) : Host.Outcome State Fault Refusal := .next (regRead .b s)

/-- REG_READ.C (R102). -/
def execRegReadC (s : State) : Host.Outcome State Fault Refusal := .next (regRead .c s)

/-- REG_READ.D (R103). -/
def execRegReadD (s : State) : Host.Outcome State Fault Refusal := .next (regRead .d s)

/-- REG_READ.E (R104). -/
def execRegReadE (s : State) : Host.Outcome State Fault Refusal := .next (regRead .e s)

/-- REG_READ.F (R105). -/
def execRegReadF (s : State) : Host.Outcome State Fault Refusal := .next (regRead .f s)

/-- REG_READ.H (R106). -/
def execRegReadH (s : State) : Host.Outcome State Fault Refusal := .next (regRead .h s)

/-- REG_READ.L (R107). -/
def execRegReadL (s : State) : Host.Outcome State Fault Refusal := .next (regRead .l s)

/-- REG_READ.SP (R108). -/
def execRegReadSP (s : State) : Host.Outcome State Fault Refusal := .next (pointerRead .sp s)

/-- REG_READ.PC (R109). -/
def execRegReadPC (s : State) : Host.Outcome State Fault Refusal := .next (pointerRead .pc s)

/-- REG_WRITE.A (R110). -/
def execRegWriteA (v : Byte) (s : State) : Host.Outcome State Fault Refusal := .next (regWrite .a v s)

/-- REG_WRITE.B (R111). -/
def execRegWriteB (v : Byte) (s : State) : Host.Outcome State Fault Refusal := .next (regWrite .b v s)

/-- REG_WRITE.C (R112). -/
def execRegWriteC (v : Byte) (s : State) : Host.Outcome State Fault Refusal := .next (regWrite .c v s)

/-- REG_WRITE.D (R113). -/
def execRegWriteD (v : Byte) (s : State) : Host.Outcome State Fault Refusal := .next (regWrite .d v s)

/-- REG_WRITE.E (R114). -/
def execRegWriteE (v : Byte) (s : State) : Host.Outcome State Fault Refusal := .next (regWrite .e v s)

/-- REG_WRITE.F (R115), with bits 3:0 of the value discarded. -/
def execRegWriteF (v : Byte) (s : State) : Host.Outcome State Fault Refusal := .next (regWrite .f v s)

/-- REG_WRITE.H (R116). -/
def execRegWriteH (v : Byte) (s : State) : Host.Outcome State Fault Refusal := .next (regWrite .h v s)

/-- REG_WRITE.L (R117). -/
def execRegWriteL (v : Byte) (s : State) : Host.Outcome State Fault Refusal := .next (regWrite .l v s)

/-- REG_WRITE.SP (R118). -/
def execRegWriteSP (v : Word) (s : State) : Host.Outcome State Fault Refusal := .next (pointerWrite .sp v s)

/-- REG_WRITE.PC (R119). -/
def execRegWritePC (v : Word) (s : State) : Host.Outcome State Fault Refusal := .next (pointerWrite .pc v s)

end Sys2Proof.Machine
end

