-- ==== Sys2Proof/Machine/Resets.lean ====
section
/-! DEFINITION. The reset commands (44_reset_commands.md): one for each component. Neither clears the refusal
mark (30_encoding.md R87: "no later command clears it"). -/

namespace Sys2Proof.Machine

/-- RF_RESET (R190): every field of the RegisterFile is zero; memory is unchanged. -/
def execRfReset (s : State) : Host.Outcome State Fault Refusal :=
  .next { s with rf := RegisterFile.reset }.respondNone

/-- MEM_RESET (R191): every byte of memory is 0x00; registers are unchanged. -/
def execMemReset (s : State) : Host.Outcome State Fault Refusal :=
  .next { s with mem := [] }.respondNone

end Sys2Proof.Machine
end

