-- ==== Sys2Proof/Machine/Dispatch.lean ====
section
/-! DEFINITION. One arm per command of 30_encoding.md R85: the meaning of an instruction. -/

namespace Sys2Proof.Machine

def exec (i : Instr) (s : State) : Host.Outcome State Fault Refusal :=
  match i with
  | .rfReset => Sys2Proof.Machine.execRfReset s
  | .memReset => Sys2Proof.Machine.execMemReset s
  | .regReadA => Sys2Proof.Machine.execRegReadA s
  | .regReadB => Sys2Proof.Machine.execRegReadB s
  | .regReadC => Sys2Proof.Machine.execRegReadC s
  | .regReadD => Sys2Proof.Machine.execRegReadD s
  | .regReadE => Sys2Proof.Machine.execRegReadE s
  | .regReadF => Sys2Proof.Machine.execRegReadF s
  | .regReadH => Sys2Proof.Machine.execRegReadH s
  | .regReadL => Sys2Proof.Machine.execRegReadL s
  | .regReadSP => Sys2Proof.Machine.execRegReadSP s
  | .regReadPC => Sys2Proof.Machine.execRegReadPC s
  | .regWriteA v => Sys2Proof.Machine.execRegWriteA v s
  | .regWriteB v => Sys2Proof.Machine.execRegWriteB v s
  | .regWriteC v => Sys2Proof.Machine.execRegWriteC v s
  | .regWriteD v => Sys2Proof.Machine.execRegWriteD v s
  | .regWriteE v => Sys2Proof.Machine.execRegWriteE v s
  | .regWriteF v => Sys2Proof.Machine.execRegWriteF v s
  | .regWriteH v => Sys2Proof.Machine.execRegWriteH v s
  | .regWriteL v => Sys2Proof.Machine.execRegWriteL v s
  | .regWriteSP v => Sys2Proof.Machine.execRegWriteSP v s
  | .regWritePC v => Sys2Proof.Machine.execRegWritePC v s
  | .pairReadAF => Sys2Proof.Machine.execPairReadAF s
  | .pairReadBC => Sys2Proof.Machine.execPairReadBC s
  | .pairReadDE => Sys2Proof.Machine.execPairReadDE s
  | .pairReadHL => Sys2Proof.Machine.execPairReadHL s
  | .pairWriteAF v => Sys2Proof.Machine.execPairWriteAF v s
  | .pairWriteBC v => Sys2Proof.Machine.execPairWriteBC v s
  | .pairWriteDE v => Sys2Proof.Machine.execPairWriteDE v s
  | .pairWriteHL v => Sys2Proof.Machine.execPairWriteHL v s
  | .flagReadZ => Sys2Proof.Machine.execFlagReadZ s
  | .flagReadN => Sys2Proof.Machine.execFlagReadN s
  | .flagReadH => Sys2Proof.Machine.execFlagReadH s
  | .flagReadC => Sys2Proof.Machine.execFlagReadC s
  | .flagWriteZ b => Sys2Proof.Machine.execFlagWriteZ b s
  | .flagWriteN b => Sys2Proof.Machine.execFlagWriteN b s
  | .flagWriteH b => Sys2Proof.Machine.execFlagWriteH b s
  | .flagWriteC b => Sys2Proof.Machine.execFlagWriteC b s
  | .memReadByte a => Sys2Proof.Machine.execMemReadByte a s
  | .memWriteByte a v => Sys2Proof.Machine.execMemWriteByte a v s
  | .memReadWord a => Sys2Proof.Machine.execMemReadWord a s
  | .memWriteWord a v => Sys2Proof.Machine.execMemWriteWord a v s
  | .loadImage data => Sys2Proof.Machine.execLoadImage data s

end Sys2Proof.Machine
end

