-- ==== Sys2Proof/Machine/Step.lean ====
section
/-! DEFINITION. One step: the oldest pending request is performed as one atomic transaction (00_scope.md R13,
30_encoding.md R80), or refused (R87), or nothing is pending. -/

namespace Sys2Proof.Machine

/-- One step. A well-formed request runs its command; a request that fails a check is refused with the first
failing check as its reason (R87, R204); with no request pending the block is idle (log 2). -/
def step (s : State) : Host.Outcome State Fault Refusal :=
  match s.takeRequest with
  | none => .next s.idle
  | some (r, rest) =>
      match decode r with
      | .ok i => exec i rest
      | .error c => .next (rest.refuse c)

/-- The state with the request of a table word as the very next one (the host's name; log 1, log 8). Nothing
in GB-CORE fetches from memory, so what step takes next is the oldest request on the request port. -/
def State.withFetchWord (s : State) (nbits w : Nat) : State := s.issue (tableRequest nbits w)

end Sys2Proof.Machine
end

