-- ==== Sys2Proof/Machine/Events.lean ====
section
/-! DEFINITION. The split of commands into byte events that 20_memory.md R69 gives for a model with several
requesters, as relations, so that every order the spec leaves OPEN is admitted (WORD_READ_ORDER and
IMAGE_WRITE_ORDER, 92_eei_decisions.md D11). GB-CORE has one requester (R64, R210; Config.multiRequester), so
`step` does not use this file; it says what R59's atomicity is with respect to (log 6). -/

namespace Sys2Proof.Machine

/-- One indivisible event of R69. -/
inductive Event where
  /-- One byte read. -/
  | read (a : Word)
  /-- One byte write. -/
  | write (a : Word) (v : Byte)
  /-- A whole command that stays one event. -/
  | whole (i : Instr)
  deriving DecidableEq, Repr

/-- The byte writes of a byte sequence that is copied to address n and up. -/
def writesFrom : Nat → List Byte → List Event
  | _, [] => []
  | n, v :: vs => .write (BitVec.ofNat 16 n) v :: writesFrom (n + 1) vs

/-- The event sequences a command may be split into with several requesters (R69): a word write is its low
byte and then its high byte; a word read is its two byte reads in either order; an image load is one byte
write per copied byte in any order; every other command stays one event. -/
def SplitsInto (i : Instr) (es : List Event) : Prop :=
  match i with
  | .memWriteWord a v => es = [.write a (lowByte v), .write (nextAddr a) (highByte v)]
  | .memReadWord a => es.Perm [.read a, .read (nextAddr a)]
  | .loadImage data => es.Perm (writesFrom 0 (data.take Config.loadWindow))
  | other => es = [.whole other]

/-- The events of a command in a machine with one or several requesters (R59, R69). -/
def EventsOf (multiRequester : Bool) (i : Instr) (es : List Event) : Prop :=
  if multiRequester then SplitsInto i es else es = [.whole i]

/-- What one event does to the block; the event of a command that does not complete does nothing (every
command completes, R200). A byte event leaves the ports alone: the response is the requester's, put together
from the bytes its reads saw. -/
def Event.apply (e : Event) (s : State) : State :=
  match e with
  | .read _ => s
  | .write a v => s.writeByte a v
  | .whole i =>
      match exec i s with
      | .next t => t
      | .fault _ | .refused _ => s

/-- The byte a byte read sees (R69: whatever the interleaving gives it). -/
def Event.sees (e : Event) (s : State) : Option (Word × Byte) :=
  match e with
  | .read a => some (a, s.readByte a)
  | .write _ _ | .whole _ => none

/-- A sequence of events one after the other. -/
def applyAll : List Event → State → State
  | [], s => s
  | e :: es, s => applyAll es (e.apply s)

/-- What the byte reads of a sequence of events see, in order. -/
def seenBytes : List Event → State → List (Word × Byte)
  | [], _ => []
  | e :: es, s => (e.sees s).toList ++ seenBytes es (e.apply s)

/-- The interleavings of two agents' event sequences: each agent's events keep their order. -/
inductive Interleaves : List Event → List Event → List Event → Prop where
  | none : Interleaves [] [] []
  | left {xs ys zs : List Event} (e : Event) : Interleaves xs ys zs → Interleaves (e :: xs) ys (e :: zs)
  | right {xs ys zs : List Event} (e : Event) : Interleaves xs ys zs → Interleaves xs (e :: ys) (e :: zs)

end Sys2Proof.Machine
end

