-- ==== Sys2Proof/Safety.lean ====
section
/-! DEFINITION. What counts as a good state and a safe run, in the terms the statements use. -/

namespace Sys2Proof.Machine

/-- Bits 3 to 0 of register F are zero (10_state.md R23). -/
abbrev State.flagNibbleZero (s : State) : Prop := s.rf.f.extractLsb' 0 4 = 0#4

/-- The invariant of every reachable state: the low nibble of F is zero (R23) and the memory list is in its
canonical form. -/
abbrev State.Inv (s : State) : Prop := s.flagNibbleZero ∧ s.mem.wf

/-- A state of a run in which no request has been refused: the mark is clear (R87, R202). The spec wants no
claim proved about a run that contains a refusal. -/
abbrev State.unrefused (s : State) : Prop := s.refusals = []

/-- Every request still to be issued is well-formed (R88). -/
abbrev State.requestsWellFormed (s : State) : Prop := ∀ r ∈ s.requests, r.wellFormed = true

end Sys2Proof.Machine
end

