-- ==== Sys2Proof/Certificates/Slice0/Obligations.lean ====
section
/-! DEFINITION. The statements for the provers, from the numbered rules of spec/. The helper definitions before
them only name commands by register, pair or flag, and write down what the access table (10_state.md R38) and
the command rules say a command stores, apart from the meanings. -/

namespace Sys2Proof.Statements

/-- REG_READ of an 8-bit register, by its register. -/
def regReadOf : Reg8 → Instr
  | .a => .regReadA
  | .b => .regReadB
  | .c => .regReadC
  | .d => .regReadD
  | .e => .regReadE
  | .f => .regReadF
  | .h => .regReadH
  | .l => .regReadL

/-- REG_WRITE of an 8-bit register, by its register. -/
def regWriteOf (r : Reg8) (v : Byte) : Instr :=
  match r with
  | .a => .regWriteA v
  | .b => .regWriteB v
  | .c => .regWriteC v
  | .d => .regWriteD v
  | .e => .regWriteE v
  | .f => .regWriteF v
  | .h => .regWriteH v
  | .l => .regWriteL v

/-- REG_READ of a pointer. -/
def pointerReadOf : Pointer → Instr
  | .sp => .regReadSP
  | .pc => .regReadPC

/-- REG_WRITE of a pointer. -/
def pointerWriteOf (p : Pointer) (v : Word) : Instr :=
  match p with
  | .sp => .regWriteSP v
  | .pc => .regWritePC v

/-- PAIR_READ of a pair. -/
def pairReadOf : Pair → Instr
  | .af => .pairReadAF
  | .bc => .pairReadBC
  | .de => .pairReadDE
  | .hl => .pairReadHL

/-- PAIR_WRITE of a pair. -/
def pairWriteOf (p : Pair) (v : Word) : Instr :=
  match p with
  | .af => .pairWriteAF v
  | .bc => .pairWriteBC v
  | .de => .pairWriteDE v
  | .hl => .pairWriteHL v

/-- FLAG_READ of a flag. -/
def flagReadOf : Flag → Instr
  | .z => .flagReadZ
  | .n => .flagReadN
  | .h => .flagReadH
  | .c => .flagReadC

/-- FLAG_WRITE of a flag. -/
def flagWriteOf (x : Flag) (b : Bool) : Instr :=
  match x with
  | .z => .flagWriteZ b
  | .n => .flagWriteN b
  | .h => .flagWriteH b
  | .c => .flagWriteC b

/-- The command bytes R87 lists as reserved, by class and selector. -/
def ReservedByte (cmd : Byte) : Prop :=
  (cmd.extractLsb' 4 4 = 0x0#4 ∧ cmd.extractLsb' 0 4 ≠ 0x1#4 ∧ cmd.extractLsb' 0 4 ≠ 0x2#4) ∨
  ((cmd.extractLsb' 4 4 = 0x1#4 ∨ cmd.extractLsb' 4 4 = 0x2#4) ∧ 0xA#4 ≤ cmd.extractLsb' 0 4) ∨
  ((0x3#4 ≤ cmd.extractLsb' 4 4 ∧ cmd.extractLsb' 4 4 ≤ 0x6#4) ∧ 0x4#4 ≤ cmd.extractLsb' 0 4) ∨
  (cmd.extractLsb' 4 4 = 0x7#4 ∧ 0x5#4 ≤ cmd.extractLsb' 0 4) ∨
  0x8#4 ≤ cmd.extractLsb' 4 4

/-- The commands that answer a value (R84). -/
def isRead : Instr → Bool
  | .regReadA | .regReadB | .regReadC | .regReadD | .regReadE | .regReadF | .regReadH | .regReadL
  | .regReadSP | .regReadPC | .pairReadAF | .pairReadBC | .pairReadDE | .pairReadHL
  | .flagReadZ | .flagReadN | .flagReadH | .flagReadC | .memReadByte _ | .memReadWord _ => true
  | .rfReset | .memReset | .regWriteA _ | .regWriteB _ | .regWriteC _ | .regWriteD _ | .regWriteE _
  | .regWriteF _ | .regWriteH _ | .regWriteL _ | .regWriteSP _ | .regWritePC _
  | .pairWriteAF _ | .pairWriteBC _ | .pairWriteDE _ | .pairWriteHL _
  | .flagWriteZ _ | .flagWriteN _ | .flagWriteH _ | .flagWriteC _
  | .memWriteByte _ _ | .memWriteWord _ _ | .loadImage _ => false

/-- The commands of the MemoryBus (R34); every other command is one of the RegisterFile. -/
def isMemoryCommand : Instr → Bool
  | .memReset | .memReadByte _ | .memWriteByte _ _ | .memReadWord _ | .memWriteWord _ _ | .loadImage _ => true
  | .rfReset | .regReadA | .regReadB | .regReadC | .regReadD | .regReadE | .regReadF | .regReadH | .regReadL
  | .regReadSP | .regReadPC | .regWriteA _ | .regWriteB _ | .regWriteC _ | .regWriteD _ | .regWriteE _
  | .regWriteF _ | .regWriteH _ | .regWriteL _ | .regWriteSP _ | .regWritePC _
  | .pairReadAF | .pairReadBC | .pairReadDE | .pairReadHL
  | .pairWriteAF _ | .pairWriteBC _ | .pairWriteDE _ | .pairWriteHL _
  | .flagReadZ | .flagReadN | .flagReadH | .flagReadC
  | .flagWriteZ _ | .flagWriteN _ | .flagWriteH _ | .flagWriteC _ => false

/-- The byte a command stores at an address, if it stores one there (R171, R173, R174, R191; R38 for the
commands that store none). -/
def byteStored (i : Instr) (a : Word) : Option Byte :=
  match i with
  | .memWriteByte b v => if a = b then some v else none
  | .memWriteWord b v =>
      if a = Machine.nextAddr b then some (v.extractLsb' 8 8) else if a = b then some (v.extractLsb' 0 8) else none
  | .loadImage data => if a.toNat < 32768 then data[a.toNat]? else none
  | .memReset => some 0x00#8
  | .rfReset | .regReadA | .regReadB | .regReadC | .regReadD | .regReadE | .regReadF | .regReadH | .regReadL
  | .regReadSP | .regReadPC | .regWriteA _ | .regWriteB _ | .regWriteC _ | .regWriteD _ | .regWriteE _
  | .regWriteF _ | .regWriteH _ | .regWriteL _ | .regWriteSP _ | .regWritePC _
  | .pairReadAF | .pairReadBC | .pairReadDE | .pairReadHL
  | .pairWriteAF _ | .pairWriteBC _ | .pairWriteDE _ | .pairWriteHL _
  | .flagReadZ | .flagReadN | .flagReadH | .flagReadC
  | .flagWriteZ _ | .flagWriteN _ | .flagWriteH _ | .flagWriteC _
  | .memReadByte _ | .memReadWord _ => none

/-- The value a command writes into an 8-bit register, given F before it, if it writes one (R110 to R117, R134
to R137, R154 to R157, R190; R38 for the commands that write none). -/
def registerStored (i : Instr) (r : Reg8) (f : Byte) : Option Byte :=
  match i with
  | .rfReset => some 0x00#8
  | .regWriteA v => if r = .a then some v else none
  | .regWriteB v => if r = .b then some v else none
  | .regWriteC v => if r = .c then some v else none
  | .regWriteD v => if r = .d then some v else none
  | .regWriteE v => if r = .e then some v else none
  | .regWriteF v => if r = .f then some (v &&& 0xF0#8) else none
  | .regWriteH v => if r = .h then some v else none
  | .regWriteL v => if r = .l then some v else none
  | .pairWriteAF v =>
      if r = .a then some (v.extractLsb' 8 8) else if r = .f then some (v.extractLsb' 0 8 &&& 0xF0#8) else none
  | .pairWriteBC v =>
      if r = .b then some (v.extractLsb' 8 8) else if r = .c then some (v.extractLsb' 0 8) else none
  | .pairWriteDE v =>
      if r = .d then some (v.extractLsb' 8 8) else if r = .e then some (v.extractLsb' 0 8) else none
  | .pairWriteHL v =>
      if r = .h then some (v.extractLsb' 8 8) else if r = .l then some (v.extractLsb' 0 8) else none
  | .flagWriteZ b => if r = .f then some (if b then f ||| 0x80#8 else f &&& 0x7F#8) else none
  | .flagWriteN b => if r = .f then some (if b then f ||| 0x40#8 else f &&& 0xBF#8) else none
  | .flagWriteH b => if r = .f then some (if b then f ||| 0x20#8 else f &&& 0xDF#8) else none
  | .flagWriteC b => if r = .f then some (if b then f ||| 0x10#8 else f &&& 0xEF#8) else none
  | .memReset | .regReadA | .regReadB | .regReadC | .regReadD | .regReadE | .regReadF | .regReadH | .regReadL
  | .regReadSP | .regReadPC | .regWriteSP _ | .regWritePC _
  | .pairReadAF | .pairReadBC | .pairReadDE | .pairReadHL
  | .flagReadZ | .flagReadN | .flagReadH | .flagReadC
  | .memReadByte _ | .memReadWord _ | .memWriteByte _ _ | .memWriteWord _ _ | .loadImage _ => none

/-- Performing a list of commands one after the other; `none` if one does not complete. -/
def performAll : List Instr → Machine.State → Option Machine.State
  | [], s => some s
  | i :: is, s =>
      match Machine.exec i s with
      | .next t => performAll is t
      | .fault _ | .refused _ => none

/-- The byte the latest of the commands that store to an address stored there, or 0x00 (R36, R64). -/
def latestByte (is : List Instr) (a : Word) : Byte :=
  (is.reverse.findSome? fun i => byteStored i a).getD 0x00#8

end Sys2Proof.Statements

open Sys2Proof Sys2Proof.Machine Sys2Proof.Statements

/-- O1, derived: 30_encoding.md section 3 (the opcode map); 95_test_vectors.md section 2. Requests written out from the
opcode map decode to the commands they stand for. One request of each class of the opcode map, its fields written as
the map and the test vectors write them, decodes to its command with its operand. -/
def Obligations.SpecWordsDecodeToTheirCommands : Prop :=
  decode ⟨0b00000001#8, 0x0000#16, 0x0000#16, []⟩ = .ok .rfReset ∧
  decode ⟨0b00010101#8, 0x0000#16, 0x0000#16, []⟩ = .ok .regReadF ∧
  decode ⟨0b00100001#8, 0x0000#16, 0x007F#16, []⟩ = .ok (.regWriteB 0x7F#8) ∧
  decode ⟨0b00101000#8, 0x0000#16, 0xFFFE#16, []⟩ = .ok (.regWriteSP 0xFFFE#16) ∧
  decode ⟨0b00110011#8, 0x0000#16, 0x0000#16, []⟩ = .ok .pairReadHL ∧
  decode ⟨0b01000000#8, 0x0000#16, 0x12FF#16, []⟩ = .ok (.pairWriteAF 0x12FF#16) ∧
  decode ⟨0b01010010#8, 0x0000#16, 0x0000#16, []⟩ = .ok .flagReadH ∧
  decode ⟨0b01100011#8, 0x0000#16, 0x0001#16, []⟩ = .ok (.flagWriteC true) ∧
  decode ⟨0b01110011#8, 0x1000#16, 0xBEEF#16, []⟩ = .ok (.memWriteWord 0x1000#16 0xBEEF#16) ∧
  decode ⟨0b01110100#8, 0x0000#16, 0x0000#16, [0xAA#8, 0xBB#8, 0xCC#8]⟩ = .ok (.loadImage [0xAA#8, 0xBB#8, 0xCC#8])

/-- O2, derived: 30_encoding.md section 2 (operand assembly); 30_encoding.md section 3 (the opcode map). Decoding the
encoding of any instruction gives that instruction back. For every instruction, with every value of every operand,
the decoder reads the request the encoder writes as that instruction: no operand bit is dropped. -/
def Obligations.DecodeOfEncodeIsTheInstruction : Prop :=
  ∀ i : Instr, decode (encode i) = .ok i

/-- O3, derived: 30_encoding.md section 2 (operand assembly); 30_encoding.md section 4 (reserved and illegal encodings).
A request that decodes is exactly the encoding of the instruction it decodes to. For every request and instruction:
the request decodes to the instruction only if it is the encoding of that instruction, so no field is ignored and no
two requests are one instruction. -/
def Obligations.DecodedRequestIsTheEncodingOfItsInstruction : Prop :=
  ∀ (r : Request) (i : Instr), decode r = .ok i → encode i = r

/-- O4, stated: R88. A request decodes to a command iff it passes the five named checks, and is refused otherwise. For
every request: it decodes to some command iff the five checks of R88 (WellFormed.lean, with the 43 codes of R85
listed) all pass; one that fails a check changes no register and no byte, answers none, and has its reason recorded
in the mark. -/
def Obligations.RequestDecodesExactlyWhenWellFormed : Prop :=
  ∀ r : Request,
    (r.wellFormed = true ↔ ∃ i, decode r = .ok i) ∧
    (r.wellFormed = false →
      ∀ s : State, ∃ (c : Check) (t : State), decode r = .error c ∧ r.passes c = false ∧
        step (s.issue r) = .next t ∧ t.rf = s.rf ∧ t.mem = s.mem ∧ t.requests = s.requests ∧
        t.response = none ∧ c ∈ t.refusals)

/-- O5, derived: 60_exceptions.md section 3 (priority). The reason of a refusal is the first failing check in the order
of the spec. For every request and check: decoding refuses with that check iff it is the first of cmd_known,
addr_unused_zero, wdata_unused_zero, wdata_width, image_unused_empty that the request fails. -/
def Obligations.RefusalReasonIsTheFirstFailingCheck : Prop :=
  ∀ (r : Request) (c : Check),
    decode r = .error c ↔
      [Check.cmdKnown, .addrUnusedZero, .wdataUnusedZero, .wdataWidth, .imageUnusedEmpty].find?
        (fun k => !r.passes k) = some c

/-- O6, derived: 30_encoding.md section 4 (reserved and illegal encodings); 60_exceptions.md section 1 (refusal).
Exactly the reserved command bytes are refused as unknown; the state is unchanged and the mark is sticky (log 4). A
byte is outside the 43 codes iff it is in the reserved classes and selectors R87 lists; a request with such a byte
is refused with reason cmd_known: registers, memory and pending requests are unchanged, the response is none, the
reason is in the mark; and no step ever takes a reason out of the mark. That the mark keeps every reason is the
model's choice (log 4); R87 says that no later command clears it. -/
def Obligations.ReservedCommandBytesAreRefused : Prop :=
  (∀ cmd : Byte, cmd ∉ knownCodes ↔ ReservedByte cmd) ∧
  (∀ (r : Request) (s : State), ReservedByte r.cmd →
    decode r = .error .cmdKnown ∧
    ∃ t : State, step (s.issue r) = .next t ∧ t.rf = s.rf ∧ t.mem = s.mem ∧ t.requests = s.requests ∧
      t.response = none ∧ .cmdKnown ∈ t.refusals) ∧
  (∀ (s t : State), step s = .next t → ∀ c ∈ s.refusals, c ∈ t.refusals)

/-- O7, derived: 60_exceptions.md section 1 (refusal); 95_test_vectors.md V-E11. A refusal adds its reason to the mark,
and the next request is performed as if it were not there (log 4). The model keeps every reason in order (its own
choice, log 4): a refused request leaves the state as it was but for response none and its reason at the end of the
mark, and a well-formed request after it is performed with the mark still set. The order of the pending requests is
log 1. -/
def Obligations.RefusedRequestRecordsItsReasonAndTheRunGoesOn : Prop :=
  ∀ (s : State) (r q : Request) (c : Check) (i : Instr), decode r = .error c → decode q = .ok i →
    step ((s.issue q).issue r) =
      .next { s.issue q with response := none, refusals := s.refusals ++ [c] } ∧
    step { s.issue q with response := none, refusals := s.refusals ++ [c] } =
      exec i { s with response := none, refusals := s.refusals ++ [c] }

/-- O8, derived: 30_encoding.md section 1 (the interface); 00_scope.md R13 (atomic transaction). A step performs the
oldest pending request (log 1): exec of the instruction it decodes to. When the oldest pending request decodes to an
instruction, the step is exec of that instruction at the state with the request taken off the port. The list of
pending requests, taken oldest first, is the model's choice (log 1); the spec has one request at a time on the port. -/
def Obligations.StepRunsTheDecodedInstruction : Prop :=
  ∀ (s : State) (r : Request) (rest : List Request) (i : Instr),
    s.requests = r :: rest → decode r = .ok i → step s = exec i { s with requests := rest }

/-- O9, derived: 30_encoding.md section 3 (the opcode map). A table word placed as the next request is run by the very
next step (log 1, log 8). If the decoder reads a table word as an instruction, the step of the state with that word
placed is exec of the instruction at the state itself. The numbering of the word is the model's choice (log 8). -/
def Obligations.StepAfterTableWordRunsItsInstruction : Prop :=
  ∀ (s : State) (nbits w : Nat) (i : Instr),
    decodeTableWord nbits w = some i → step (s.withFetchWord nbits w) = exec i s

/-- O10, derived: 10_state.md section 9a (hidden state); 30_encoding.md section 1 (the interface). With no request
pending a step changes nothing (the model's reading, log 2). When the request port is empty, the step answers the
same state. The spec does not say it in words (log 2). -/
def Obligations.StepWithNoRequestChangesNothing : Prop :=
  ∀ s : State, s.requests = [] → step s = .next s

/-- O11, stated: R100; R101; R102; R103; R104; R106; R107. REG_READ of A, B, C, D, E, H, L answers the register zero-
extended and changes nothing else. For every state and each of the seven general registers: the request with its
code and no operand decodes to the command, which completes with the response zext_16 of the register and every
other field as before; the register is the named half of its pair. -/
def Obligations.RegReadAnswersTheRegisterZeroExtended : Prop :=
  ∀ s : State,
    (decode ⟨0x10#8, 0, 0, []⟩ = .ok .regReadA ∧
      exec .regReadA s = .next { s with response := some (s.rf.a.setWidth 16) } ∧
      s.rf.a = highByte (s.rf.getPair .af)) ∧
    (decode ⟨0x11#8, 0, 0, []⟩ = .ok .regReadB ∧
      exec .regReadB s = .next { s with response := some (s.rf.b.setWidth 16) } ∧
      s.rf.b = highByte (s.rf.getPair .bc)) ∧
    (decode ⟨0x12#8, 0, 0, []⟩ = .ok .regReadC ∧
      exec .regReadC s = .next { s with response := some (s.rf.c.setWidth 16) } ∧
      s.rf.c = lowByte (s.rf.getPair .bc)) ∧
    (decode ⟨0x13#8, 0, 0, []⟩ = .ok .regReadD ∧
      exec .regReadD s = .next { s with response := some (s.rf.d.setWidth 16) } ∧
      s.rf.d = highByte (s.rf.getPair .de)) ∧
    (decode ⟨0x14#8, 0, 0, []⟩ = .ok .regReadE ∧
      exec .regReadE s = .next { s with response := some (s.rf.e.setWidth 16) } ∧
      s.rf.e = lowByte (s.rf.getPair .de)) ∧
    (decode ⟨0x16#8, 0, 0, []⟩ = .ok .regReadH ∧
      exec .regReadH s = .next { s with response := some (s.rf.h.setWidth 16) } ∧
      s.rf.h = highByte (s.rf.getPair .hl)) ∧
    (decode ⟨0x17#8, 0, 0, []⟩ = .ok .regReadL ∧
      exec .regReadL s = .next { s with response := some (s.rf.l.setWidth 16) } ∧
      s.rf.l = lowByte (s.rf.getPair .hl))

/-- O12, stated: R105. REG_READ.F answers F zero-extended; its low nibble is zero and bits 7:4 are Z, N, H, C. For every
state: the request 0x15 decodes to REG_READ.F, which completes with response zext_16 of F and nothing else changed;
bits 7, 6, 5, 4 of the response are the flags Z, N, H, C; and where the low nibble of F is zero (the invariant of
R23) the response is 16*k with k < 16. -/
def Obligations.RegReadFAnswersTheFlagsByte : Prop :=
  ∀ s : State,
    decode ⟨0x15#8, 0, 0, []⟩ = .ok .regReadF ∧
    exec .regReadF s = .next { s with response := some (s.rf.f.setWidth 16) } ∧
    (∀ x : Flag, (s.rf.f.setWidth 16 : Word).getLsbD (flagBit x) = flagOf x s.rf.f) ∧
    (s.flagNibbleZero → ∃ k : Nat, k < 16 ∧ (s.rf.f.setWidth 16 : Word) = BitVec.ofNat 16 (16 * k))

/-- O13, stated: R108; R109. REG_READ.SP and REG_READ.PC answer the 16-bit pointer and change nothing else. For every
state: the requests 0x18 and 0x19 decode to REG_READ.SP and REG_READ.PC, which complete with the pointer as the
response and every other field, SP and PC included, as before. -/
def Obligations.RegReadOfPointersAnswersThem : Prop :=
  ∀ s : State,
    (decode ⟨0x18#8, 0, 0, []⟩ = .ok .regReadSP ∧
      exec .regReadSP s = .next { s with response := some s.rf.sp }) ∧
    (decode ⟨0x19#8, 0, 0, []⟩ = .ok .regReadPC ∧
      exec .regReadPC s = .next { s with response := some s.rf.pc })

/-- O14, stated: R110; R111; R112; R113; R114; R116; R117. REG_WRITE of A, B, C, D, E, H, L stores the value and changes
nothing else; a wide wdata is refused. For every state, 8-bit value v and each general register: the request with
its code and wdata = zext_16(v) decodes to the command, which completes with the register = v, response none and
every other field (all other registers, flags, memory) as before; its pair view changes in that half only; a request
with wdata[15:8] not 0 is refused as wdata_width. -/
def Obligations.RegWriteStoresTheByte : Prop :=
  ∀ (s : State) (v : Byte) (w : Word),
    (decode ⟨0x20#8, 0, v.setWidth 16, []⟩ = .ok (.regWriteA v) ∧
      exec (.regWriteA v) s = .next { s with rf := { s.rf with a := v }, response := none } ∧
      ({ s.rf with a := v } : RegisterFile).getPair .af = joinBytes v s.rf.f ∧
      (w.extractLsb' 8 8 ≠ 0#8 → decode ⟨0x20#8, 0, w, []⟩ = .error .wdataWidth)) ∧
    (decode ⟨0x21#8, 0, v.setWidth 16, []⟩ = .ok (.regWriteB v) ∧
      exec (.regWriteB v) s = .next { s with rf := { s.rf with b := v }, response := none } ∧
      ({ s.rf with b := v } : RegisterFile).getPair .bc = joinBytes v s.rf.c ∧
      (w.extractLsb' 8 8 ≠ 0#8 → decode ⟨0x21#8, 0, w, []⟩ = .error .wdataWidth)) ∧
    (decode ⟨0x22#8, 0, v.setWidth 16, []⟩ = .ok (.regWriteC v) ∧
      exec (.regWriteC v) s = .next { s with rf := { s.rf with c := v }, response := none } ∧
      ({ s.rf with c := v } : RegisterFile).getPair .bc = joinBytes s.rf.b v ∧
      (w.extractLsb' 8 8 ≠ 0#8 → decode ⟨0x22#8, 0, w, []⟩ = .error .wdataWidth)) ∧
    (decode ⟨0x23#8, 0, v.setWidth 16, []⟩ = .ok (.regWriteD v) ∧
      exec (.regWriteD v) s = .next { s with rf := { s.rf with d := v }, response := none } ∧
      ({ s.rf with d := v } : RegisterFile).getPair .de = joinBytes v s.rf.e ∧
      (w.extractLsb' 8 8 ≠ 0#8 → decode ⟨0x23#8, 0, w, []⟩ = .error .wdataWidth)) ∧
    (decode ⟨0x24#8, 0, v.setWidth 16, []⟩ = .ok (.regWriteE v) ∧
      exec (.regWriteE v) s = .next { s with rf := { s.rf with e := v }, response := none } ∧
      ({ s.rf with e := v } : RegisterFile).getPair .de = joinBytes s.rf.d v ∧
      (w.extractLsb' 8 8 ≠ 0#8 → decode ⟨0x24#8, 0, w, []⟩ = .error .wdataWidth)) ∧
    (decode ⟨0x26#8, 0, v.setWidth 16, []⟩ = .ok (.regWriteH v) ∧
      exec (.regWriteH v) s = .next { s with rf := { s.rf with h := v }, response := none } ∧
      ({ s.rf with h := v } : RegisterFile).getPair .hl = joinBytes v s.rf.l ∧
      (w.extractLsb' 8 8 ≠ 0#8 → decode ⟨0x26#8, 0, w, []⟩ = .error .wdataWidth)) ∧
    (decode ⟨0x27#8, 0, v.setWidth 16, []⟩ = .ok (.regWriteL v) ∧
      exec (.regWriteL v) s = .next { s with rf := { s.rf with l := v }, response := none } ∧
      ({ s.rf with l := v } : RegisterFile).getPair .hl = joinBytes s.rf.h v ∧
      (w.extractLsb' 8 8 ≠ 0#8 → decode ⟨0x27#8, 0, w, []⟩ = .error .wdataWidth))

/-- O15, derived: 40_register_access.md section 2 (REG_WRITE.F); 92_eei_decisions.md D7. REG_WRITE.F stores v & 0xF0 and
sets the four flags from bits 7:4 (the decision D7, log 5). For every state and 8-bit value v: 0x25 with wdata =
zext_16(v) decodes to REG_WRITE.F, which completes with F = v & 0xF0, Z, N, H, C = v[7], v[6], v[5], v[4], response
none and every other field as before; a wide wdata is refused. The mask 0xF0 is the spec's own decision D7 (log 5). -/
def Obligations.RegWriteFStoresTheMaskedByte : Prop :=
  ∀ (s : State) (v : Byte) (w : Word),
    decode ⟨0x25#8, 0, v.setWidth 16, []⟩ = .ok (.regWriteF v) ∧
    exec (.regWriteF v) s = .next { s with rf := { s.rf with f := v &&& 0xF0#8 }, response := none } ∧
    (flagOf .z (v &&& 0xF0#8) = v.getLsbD 7 ∧ flagOf .n (v &&& 0xF0#8) = v.getLsbD 6 ∧
      flagOf .h (v &&& 0xF0#8) = v.getLsbD 5 ∧ flagOf .c (v &&& 0xF0#8) = v.getLsbD 4) ∧
    (v &&& 0xF0#8).extractLsb' 0 4 = 0#4 ∧
    (w.extractLsb' 8 8 ≠ 0#8 → decode ⟨0x25#8, 0, w, []⟩ = .error .wdataWidth)

/-- O16, stated: R118; R119. REG_WRITE.SP and REG_WRITE.PC store the 16-bit value and change nothing else. For every
state and 16-bit value: the requests 0x28 and 0x29 with that wdata decode to the commands, which complete with SP
(or PC) = the value, response none and every other field as before. -/
def Obligations.RegWriteOfPointersStoresTheWord : Prop :=
  ∀ (s : State) (v : Word),
    (decode ⟨0x28#8, 0, v, []⟩ = .ok (.regWriteSP v) ∧
      exec (.regWriteSP v) s = .next { s with rf := { s.rf with sp := v }, response := none }) ∧
    (decode ⟨0x29#8, 0, v, []⟩ = .ok (.regWritePC v) ∧
      exec (.regWritePC v) s = .next { s with rf := { s.rf with pc := v }, response := none })

/-- O17, derived: 40_register_access.md section 3 (laws of the family). A register read after a write of it answers the
value written (masked for F), and nothing else changed. For every state, register and value: REG_WRITE then REG_READ
of the same register completes and answers zext_16(v), for F zext_16(v & 0xF0), for SP and PC v; the write leaves
every other register, SP, PC (but the one written) and all of memory unchanged. The mask of REG_WRITE.F is the
decision D7 (log 5). -/
def Obligations.RegisterWriteThenReadRoundTrips : Prop :=
  (∀ (s : State) (r : Reg8) (v : Byte), ∃ t u : State,
    exec (regWriteOf r v) s = .next t ∧ exec (regReadOf r) t = .next u ∧
    u.response = some ((if r = .f then v &&& 0xF0#8 else v).setWidth 16) ∧
    (∀ q : Reg8, q ≠ r → t.rf.get q = s.rf.get q) ∧ (∀ p : Pointer, t.rf.getPointer p = s.rf.getPointer p) ∧
    ∀ a : Word, t.readByte a = s.readByte a) ∧
  (∀ (s : State) (p : Pointer) (v : Word), ∃ t u : State,
    exec (pointerWriteOf p v) s = .next t ∧ exec (pointerReadOf p) t = .next u ∧
    u.response = some v ∧
    (∀ q : Reg8, t.rf.get q = s.rf.get q) ∧ (∀ q : Pointer, q ≠ p → t.rf.getPointer q = s.rf.getPointer q) ∧
    ∀ a : Word, t.readByte a = s.readByte a)

/-- O18, stated: R130. PAIR_READ.AF answers A in bits 15:8 and F in bits 7:0, its bits 3:0 zero and bits 7:4 the flags.
For every state: 0x30 decodes to PAIR_READ.AF, which completes with response (zext A << 8) | zext F and nothing else
changed; bits 7, 6, 5, 4 of it are Z, N, H, C; where F's low nibble is zero (R23) bits 3:0 of it are 0. -/
def Obligations.PairReadAFJoinsAAndF : Prop :=
  ∀ s : State,
    decode ⟨0x30#8, 0, 0, []⟩ = .ok .pairReadAF ∧
    exec .pairReadAF s =
      .next { s with response := some (((s.rf.a.setWidth 16 : Word) <<< 8) ||| (s.rf.f.setWidth 16 : Word)) } ∧
    (∀ x : Flag,
      (((s.rf.a.setWidth 16 : Word) <<< 8) ||| (s.rf.f.setWidth 16 : Word)).getLsbD (flagBit x) = flagOf x s.rf.f) ∧
    (s.flagNibbleZero →
      (((s.rf.a.setWidth 16 : Word) <<< 8) ||| (s.rf.f.setWidth 16 : Word)).extractLsb' 0 4 = 0#4)

/-- O19, stated: R131; R132; R133. PAIR_READ.BC, DE and HL answer the first register in bits 15:8 and the second in bits
7:0. For every state and each of BC, DE, HL: the request decodes to the command, which completes with the response
whose bits 15:8 are the whole first register and bits 7:0 the whole second one, and nothing else changes. -/
def Obligations.PairReadJoinsTheTwoRegisters : Prop :=
  ∀ s : State,
    (decode ⟨0x31#8, 0, 0, []⟩ = .ok .pairReadBC ∧
      ∃ w : Word, exec .pairReadBC s = .next { s with response := some w } ∧
        w = (((s.rf.b.setWidth 16 : Word) <<< 8) ||| (s.rf.c.setWidth 16 : Word)) ∧
        w.extractLsb' 8 8 = s.rf.b ∧ w.extractLsb' 0 8 = s.rf.c) ∧
    (decode ⟨0x32#8, 0, 0, []⟩ = .ok .pairReadDE ∧
      ∃ w : Word, exec .pairReadDE s = .next { s with response := some w } ∧
        w = (((s.rf.d.setWidth 16 : Word) <<< 8) ||| (s.rf.e.setWidth 16 : Word)) ∧
        w.extractLsb' 8 8 = s.rf.d ∧ w.extractLsb' 0 8 = s.rf.e) ∧
    (decode ⟨0x33#8, 0, 0, []⟩ = .ok .pairReadHL ∧
      ∃ w : Word, exec .pairReadHL s = .next { s with response := some w } ∧
        w = (((s.rf.h.setWidth 16 : Word) <<< 8) ||| (s.rf.l.setWidth 16 : Word)) ∧
        w.extractLsb' 8 8 = s.rf.h ∧ w.extractLsb' 0 8 = s.rf.l)

/-- O20, stated: R134. PAIR_WRITE.AF stores v[15:8] in A and v[7:0] & 0xF0 in F, and sets the four flags. For every
state and 16-bit v: 0x40 with wdata = v decodes to PAIR_WRITE.AF, which completes with A = v[15:8], F = v[7:0] &
0xF0, Z, N, H, C = v[7], v[6], v[5], v[4], response none, every other field as before; PAIR_READ.AF then answers v &
0xFFF0. -/
def Obligations.PairWriteAFMasksTheFlagsByte : Prop :=
  ∀ (s : State) (v : Word),
    decode ⟨0x40#8, 0, v, []⟩ = .ok (.pairWriteAF v) ∧
    ∃ t : State, exec (.pairWriteAF v) s = .next t ∧
      t = { s with rf := { s.rf with a := v.extractLsb' 8 8, f := v.extractLsb' 0 8 &&& 0xF0#8 }, response := none } ∧
      (flagOf .z t.rf.f = v.getLsbD 7 ∧ flagOf .n t.rf.f = v.getLsbD 6 ∧
        flagOf .h t.rf.f = v.getLsbD 5 ∧ flagOf .c t.rf.f = v.getLsbD 4) ∧
      exec .pairReadAF t = .next { t with response := some (v &&& 0xFFF0#16) }

/-- O21, stated: R135; R136; R137. PAIR_WRITE.BC, DE and HL store both halves unmodified and change nothing else. For
every state, 16-bit v and each of BC, DE, HL: the request with wdata = v decodes to the command, which completes
with the first register = v[15:8], the second = v[7:0], response none, and every other register, F with its flags,
and memory as before. -/
def Obligations.PairWriteStoresBothHalves : Prop :=
  ∀ (s : State) (v : Word),
    (decode ⟨0x41#8, 0, v, []⟩ = .ok (.pairWriteBC v) ∧
      exec (.pairWriteBC v) s =
        .next { s with rf := { s.rf with b := v.extractLsb' 8 8, c := v.extractLsb' 0 8 }, response := none }) ∧
    (decode ⟨0x42#8, 0, v, []⟩ = .ok (.pairWriteDE v) ∧
      exec (.pairWriteDE v) s =
        .next { s with rf := { s.rf with d := v.extractLsb' 8 8, e := v.extractLsb' 0 8 }, response := none }) ∧
    (decode ⟨0x43#8, 0, v, []⟩ = .ok (.pairWriteHL v) ∧
      exec (.pairWriteHL v) s =
        .next { s with rf := { s.rf with h := v.extractLsb' 8 8, l := v.extractLsb' 0 8 }, response := none })

/-- O22, stated: R138. Reading the two registers after a pair write gives hi and lo exactly; for AF, A = hi and F = lo &
0xF0. For all 8-bit hi, lo, every state and pair: PAIR_WRITE of (hi << 8) | lo completes, and reading the two
registers of the pair then answers hi and lo exactly for BC, DE, HL, and hi and lo & 0xF0 for AF. -/
def Obligations.PairWriteThenRegisterReads : Prop :=
  ∀ (s : State) (p : Pair) (hi lo : Byte), ∃ t u w : State,
    exec (pairWriteOf p (((hi.setWidth 16 : Word) <<< 8) ||| (lo.setWidth 16 : Word))) s = .next t ∧
    exec (regReadOf (pairHigh p)) t = .next u ∧ exec (regReadOf (pairLow p)) t = .next w ∧
    u.response = some (hi.setWidth 16) ∧
    w.response = some ((if p = .af then lo &&& 0xF0#8 else lo).setWidth 16)

/-- O23, stated: R139. PAIR_READ after PAIR_WRITE v answers v for BC, DE, HL and v & 0xFFF0 for AF. For all 16-bit v,
every state and pair: PAIR_WRITE then PAIR_READ of the pair completes and answers v, or for AF (v & 0xFF00) | (v &
0x00F0), which is v & 0xFFF0. -/
def Obligations.PairWriteThenPairRead : Prop :=
  ∀ (s : State) (p : Pair) (v : Word), ∃ t u : State,
    exec (pairWriteOf p v) s = .next t ∧ exec (pairReadOf p) t = .next u ∧
    u.response = some (if p = .af then (v &&& 0xFF00#16) ||| (v &&& 0x00F0#16) else v) ∧
    (v &&& 0xFF00#16) ||| (v &&& 0x00F0#16) = v &&& 0xFFF0#16

/-- O24, derived: 41_pair_views.md section 3 (laws of the family). A pair write changes its own two registers only, and
only AF changes a flag. For every state, pair, value and next state of PAIR_WRITE: the six other 8-bit registers,
SP, PC, every byte of memory, the pending requests and the refusal mark are unchanged; for a pair other than AF
every flag is unchanged. -/
def Obligations.PairWriteLeavesEverythingElse : Prop :=
  ∀ (s t : State) (p : Pair) (v : Word), exec (pairWriteOf p v) s = .next t →
    (∀ q : Reg8, q ≠ pairHigh p → q ≠ pairLow p → t.rf.get q = s.rf.get q) ∧
    (∀ q : Pointer, t.rf.getPointer q = s.rf.getPointer q) ∧
    (∀ a : Word, t.readByte a = s.readByte a) ∧
    t.requests = s.requests ∧ t.refusals = s.refusals ∧
    (p ≠ .af → ∀ x : Flag, flagOf x t.rf.f = flagOf x s.rf.f)

/-- O25, stated: R150; R151; R152; R153. FLAG_READ.Z, N, H, C answer 0x0001 iff bit 7, 6, 5, 4 of F is 1, and change
nothing else. For every state and flag: the request decodes to the command, which completes with response 0x0001 if
its one bit of F is 1 and 0x0000 else, and nothing else changed; it answers 0x0000 after reset. -/
def Obligations.FlagReadAnswersItsBitOfF : Prop :=
  ∀ s : State,
    (decode ⟨0x50#8, 0, 0, []⟩ = .ok .flagReadZ ∧
      exec .flagReadZ s = .next { s with response := some (if s.rf.f.getLsbD 7 then 0x0001#16 else 0x0000#16) } ∧
      exec .flagReadZ State.reset = .next { State.reset with response := some 0x0000#16 }) ∧
    (decode ⟨0x51#8, 0, 0, []⟩ = .ok .flagReadN ∧
      exec .flagReadN s = .next { s with response := some (if s.rf.f.getLsbD 6 then 0x0001#16 else 0x0000#16) } ∧
      exec .flagReadN State.reset = .next { State.reset with response := some 0x0000#16 }) ∧
    (decode ⟨0x52#8, 0, 0, []⟩ = .ok .flagReadH ∧
      exec .flagReadH s = .next { s with response := some (if s.rf.f.getLsbD 5 then 0x0001#16 else 0x0000#16) } ∧
      exec .flagReadH State.reset = .next { State.reset with response := some 0x0000#16 }) ∧
    (decode ⟨0x53#8, 0, 0, []⟩ = .ok .flagReadC ∧
      exec .flagReadC s = .next { s with response := some (if s.rf.f.getLsbD 4 then 0x0001#16 else 0x0000#16) } ∧
      exec .flagReadC State.reset = .next { State.reset with response := some 0x0000#16 })

/-- O26, stated: R154; R155; R156; R157. FLAG_WRITE.Z, N, H, C set or clear exactly bit 7, 6, 5, 4 of F and change
nothing else. For every state, boolean and flag: the request with wdata 0x0001 or 0x0000 decodes to the command,
which completes with F | its bit or F & the complement, response none and every other field as before; exactly that
bit of F is the boolean and the seven others are unchanged; writing the value held leaves F, and writing twice is
the same as once; wdata[15:1] not 0 is refused. -/
def Obligations.FlagWriteChangesItsBitOfF : Prop :=
  ∀ (s : State) (b : Bool) (w : Word),
    (decode ⟨0x60#8, 0, if b then 0x0001#16 else 0x0000#16, []⟩ = .ok (.flagWriteZ b) ∧
      (w.extractLsb' 1 15 ≠ 0#15 → decode ⟨0x60#8, 0, w, []⟩ = .error .wdataWidth) ∧
      ∃ t : State, exec (.flagWriteZ b) s = .next t ∧
        t = { s with rf := { s.rf with f := if b then s.rf.f ||| 0x80#8 else s.rf.f &&& 0x7F#8 }, response := none } ∧
        (∀ k : Nat, t.rf.f.getLsbD k = if k = 7 then b else s.rf.f.getLsbD k) ∧
        (s.rf.f.getLsbD 7 = b → t.rf.f = s.rf.f) ∧
        exec (.flagWriteZ b) t = .next t) ∧
    (decode ⟨0x61#8, 0, if b then 0x0001#16 else 0x0000#16, []⟩ = .ok (.flagWriteN b) ∧
      (w.extractLsb' 1 15 ≠ 0#15 → decode ⟨0x61#8, 0, w, []⟩ = .error .wdataWidth) ∧
      ∃ t : State, exec (.flagWriteN b) s = .next t ∧
        t = { s with rf := { s.rf with f := if b then s.rf.f ||| 0x40#8 else s.rf.f &&& 0xBF#8 }, response := none } ∧
        (∀ k : Nat, t.rf.f.getLsbD k = if k = 6 then b else s.rf.f.getLsbD k) ∧
        (s.rf.f.getLsbD 6 = b → t.rf.f = s.rf.f) ∧
        exec (.flagWriteN b) t = .next t) ∧
    (decode ⟨0x62#8, 0, if b then 0x0001#16 else 0x0000#16, []⟩ = .ok (.flagWriteH b) ∧
      (w.extractLsb' 1 15 ≠ 0#15 → decode ⟨0x62#8, 0, w, []⟩ = .error .wdataWidth) ∧
      ∃ t : State, exec (.flagWriteH b) s = .next t ∧
        t = { s with rf := { s.rf with f := if b then s.rf.f ||| 0x20#8 else s.rf.f &&& 0xDF#8 }, response := none } ∧
        (∀ k : Nat, t.rf.f.getLsbD k = if k = 5 then b else s.rf.f.getLsbD k) ∧
        (s.rf.f.getLsbD 5 = b → t.rf.f = s.rf.f) ∧
        exec (.flagWriteH b) t = .next t) ∧
    (decode ⟨0x63#8, 0, if b then 0x0001#16 else 0x0000#16, []⟩ = .ok (.flagWriteC b) ∧
      (w.extractLsb' 1 15 ≠ 0#15 → decode ⟨0x63#8, 0, w, []⟩ = .error .wdataWidth) ∧
      ∃ t : State, exec (.flagWriteC b) s = .next t ∧
        t = { s with rf := { s.rf with f := if b then s.rf.f ||| 0x10#8 else s.rf.f &&& 0xEF#8 }, response := none } ∧
        (∀ k : Nat, t.rf.f.getLsbD k = if k = 4 then b else s.rf.f.getLsbD k) ∧
        (s.rf.f.getLsbD 4 = b → t.rf.f = s.rf.f) ∧
        exec (.flagWriteC b) t = .next t)

/-- O27, stated: R158. Setting then clearing a flag makes it read 0 and leaves the others; the C, H, N, Z chain gives
10, 30, 70, F0. For every state and flag: FLAG_WRITE 1, FLAG_WRITE 0, FLAG_READ of the flag completes with response
0x0000 and the other three flags as at the start; from F = 0x00, setting C, then H, then N, then Z gives F = 0x10,
0x30, 0x70, 0xF0 in turn. -/
def Obligations.FlagSetThenClearLeavesTheOthers : Prop :=
  (∀ (s : State) (x : Flag), ∃ t u w : State,
    exec (flagWriteOf x true) s = .next t ∧ exec (flagWriteOf x false) t = .next u ∧
    exec (flagReadOf x) u = .next w ∧ w.response = some 0x0000#16 ∧
    ∀ y : Flag, y ≠ x → flagOf y u.rf.f = flagOf y s.rf.f) ∧
  (∀ s : State, s.rf.f = 0x00#8 → ∃ t1 t2 t3 t4 : State,
    exec (.flagWriteC true) s = .next t1 ∧ exec (.flagWriteH true) t1 = .next t2 ∧
    exec (.flagWriteN true) t2 = .next t3 ∧ exec (.flagWriteZ true) t3 = .next t4 ∧
    t1.rf.f = 0x10#8 ∧ t2.rf.f = 0x30#8 ∧ t3.rf.f = 0x70#8 ∧ t4.rf.f = 0xF0#8)

/-- O28, derived: 42_flags.md section 3 (laws of the family). The flag reads are bits of REG_READ.F and PAIR_READ.AF;
writes of different flags commute, the last of one wins. For every state and flag, the responses of REG_READ.F and
PAIR_READ.AF hold the flag in its bit and FLAG_READ answers that bit; two FLAG_WRITEs of different flags give the
same state in either order, and of two of one flag the later one alone counts. -/
def Obligations.FlagViewsAgreeAndWritesCommute : Prop :=
  (∀ (s : State) (x : Flag), ∃ (f af : Word),
    exec .regReadF s = .next { s with response := some f } ∧
    exec .pairReadAF s = .next { s with response := some af } ∧
    f.getLsbD (flagBit x) = af.getLsbD (flagBit x) ∧
    exec (flagReadOf x) s = .next { s with response := some (if f.getLsbD (flagBit x) then 0x0001#16 else 0x0000#16) }) ∧
  (∀ (s : State) (x y : Flag) (b c : Bool), ∃ t u v : State,
    exec (flagWriteOf x b) s = .next t ∧ exec (flagWriteOf y c) t = .next u ∧ exec (flagWriteOf y c) s = .next v ∧
    (x ≠ y → exec (flagWriteOf x b) v = .next u) ∧ (x = y → u = v))

/-- O29, derived: 42_flags.md section 3 (laws of the family); 10_state.md section 3 (flags). No command but REG_WRITE.F,
PAIR_WRITE.AF and RF_RESET changes more than one flag. For every command other than REG_WRITE.F, PAIR_WRITE.AF and
RF_RESET, every state and next state, there is one flag such that the other three are unchanged; and a command that
is no FLAG_WRITE either leaves all of F unchanged. -/
def Obligations.OnlyThreeCommandsWriteSeveralFlags : Prop :=
  ∀ (i : Instr) (s t : State), exec i s = .next t →
    (∀ v, i ≠ .regWriteF v) → (∀ v, i ≠ .pairWriteAF v) → i ≠ .rfReset →
    (∃ x : Flag, ∀ y : Flag, y ≠ x → flagOf y t.rf.f = flagOf y s.rf.f) ∧
    ((∀ (x : Flag) (b : Bool), i ≠ flagWriteOf x b) → t.rf.f = s.rf.f)

/-- O30, stated: R170. MEM_READ_BYTE answers the byte at its address zero-extended, changes nothing, and is 0x00 after
reset. For every state and every 16-bit address: 0x70 with that addr decodes to MEM_READ_BYTE, which completes with
response zext_16(M[a]) and nothing else changed, so a second read answers the same; after reset it answers 0x0000 at
every address. -/
def Obligations.MemReadByteAnswersTheByte : Prop :=
  ∀ (s : State) (a : Word),
    decode ⟨0x70#8, a, 0, []⟩ = .ok (.memReadByte a) ∧
    (∃ t : State, exec (.memReadByte a) s = .next t ∧
      t = { s with response := some ((s.readByte a).setWidth 16) } ∧ exec (.memReadByte a) t = .next t) ∧
    exec (.memReadByte a) State.reset = .next { State.reset with response := some 0x0000#16 }

/-- O31, stated: R171. MEM_WRITE_BYTE stores the byte at its address, at every address, and changes nothing else. For
every state, address and 8-bit value: 0x71 decodes to MEM_WRITE_BYTE, which completes with M[a] = v and response
none; every other byte, every register, the pending requests and the mark are as before; wdata[15:8] not 0 is
refused. -/
def Obligations.MemWriteByteStoresOneByte : Prop :=
  ∀ (s : State) (a : Word) (v : Byte) (w : Word),
    decode ⟨0x71#8, a, v.setWidth 16, []⟩ = .ok (.memWriteByte a v) ∧
    (w.extractLsb' 8 8 ≠ 0#8 → decode ⟨0x71#8, a, w, []⟩ = .error .wdataWidth) ∧
    ∃ t : State, exec (.memWriteByte a v) s = .next t ∧
      t.readByte a = v ∧ (∀ b : Word, b ≠ a → t.readByte b = s.readByte b) ∧
      t.rf = s.rf ∧ t.requests = s.requests ∧ t.response = none ∧ t.refusals = s.refusals

/-- O32, stated: R172. MEM_READ_WORD answers M[a] in bits 7:0 and M[(a+1) mod 65536] in bits 15:8, and changes nothing.
For every state and every address, odd or even: 0x72 decodes to MEM_READ_WORD, which completes with a response whose
low byte is M[a] and high byte the byte at a + 1 modulo 65536, nothing else changed; at 0xFFFF the high byte is
M[0x0000]. -/
def Obligations.MemReadWordAnswersLittleEndian : Prop :=
  ∀ (s : State) (a : Word),
    decode ⟨0x72#8, a, 0, []⟩ = .ok (.memReadWord a) ∧
    (∃ w : Word, exec (.memReadWord a) s = .next { s with response := some w } ∧
      w = (((s.readByte (BitVec.ofNat 16 ((a.toNat + 1) % 65536))).setWidth 16 : Word) <<< 8) |||
        ((s.readByte a).setWidth 16 : Word) ∧
      w.extractLsb' 0 8 = s.readByte a ∧
      w.extractLsb' 8 8 = s.readByte (BitVec.ofNat 16 ((a.toNat + 1) % 65536))) ∧
    ∃ w : Word, exec (.memReadWord 0xFFFF#16) s = .next { s with response := some w } ∧
      w.extractLsb' 0 8 = s.readByte 0xFFFF#16 ∧ w.extractLsb' 8 8 = s.readByte 0x0000#16

/-- O33, stated: R173. MEM_WRITE_WORD stores v[7:0] at a and v[15:8] at (a+1) mod 65536, and changes nothing else. For
every state, address and 16-bit value: 0x73 decodes to MEM_WRITE_WORD, which completes with M[a] = v[7:0], the byte
at nextAddr a (a + 1 modulo 65536) = v[15:8] and response none; every other byte, every register, the pending
requests and the mark are as before; at 0xFFFF the high byte goes to 0x0000. -/
def Obligations.MemWriteWordStoresTwoBytes : Prop :=
  (∀ a : Word, nextAddr a = BitVec.ofNat 16 ((a.toNat + 1) % 65536)) ∧
  ∀ (s : State) (a v : Word),
    decode ⟨0x73#8, a, v, []⟩ = .ok (.memWriteWord a v) ∧
    (∃ t : State, exec (.memWriteWord a v) s = .next t ∧
      t.readByte a = v.extractLsb' 0 8 ∧ t.readByte (nextAddr a) = v.extractLsb' 8 8 ∧
      (∀ b : Word, b ≠ a → b ≠ nextAddr a → t.readByte b = s.readByte b) ∧
      t.rf = s.rf ∧ t.requests = s.requests ∧ t.response = none ∧ t.refusals = s.refusals) ∧
    ∃ t : State, exec (.memWriteWord 0xFFFF#16 v) s = .next t ∧
      t.readByte 0xFFFF#16 = v.extractLsb' 0 8 ∧ t.readByte 0x0000#16 = v.extractLsb' 8 8

/-- O34, stated: R174. LOAD_IMAGE copies the first min(L, 32768) bytes to address 0 and up and leaves every other byte.
For every state and image of any length L: 0x74 decodes to LOAD_IMAGE, which completes with M[a] = data[a] for every
a < min(L, 32768) and every other byte, those at 0x8000 and above always among them, as before; response none;
registers, pending requests and the mark unchanged. -/
def Obligations.LoadImageCopiesTheClampedStart : Prop :=
  ∀ (s : State) (data : List Byte),
    decode ⟨0x74#8, 0, 0, data⟩ = .ok (.loadImage data) ∧
    ∃ t : State, exec (.loadImage data) s = .next t ∧
      (∀ a : Word, a.toNat < min data.length 32768 → data[a.toNat]? = some (t.readByte a)) ∧
      (∀ a : Word, min data.length 32768 ≤ a.toNat → t.readByte a = s.readByte a) ∧
      t.rf = s.rf ∧ t.requests = s.requests ∧ t.response = none ∧ t.refusals = s.refusals

/-- O35, stated: R175. A byte or word read after a write at the same address answers the value, and only those bytes
changed. For every state, address (0xFFFF included) and value: MEM_WRITE_BYTE then MEM_READ_BYTE completes and
answers zext_16(v), all other addresses unaffected; MEM_WRITE_WORD then MEM_READ_WORD completes and answers v, and
only a and next(a) changed. -/
def Obligations.MemoryWriteThenReadRoundTrips : Prop :=
  (∀ (s : State) (a : Word) (v : Byte), ∃ t u : State,
    exec (.memWriteByte a v) s = .next t ∧ exec (.memReadByte a) t = .next u ∧
    u.response = some (v.setWidth 16) ∧ ∀ b : Word, b ≠ a → u.readByte b = s.readByte b) ∧
  (∀ (s : State) (a v : Word), ∃ t u : State,
    exec (.memWriteWord a v) s = .next t ∧ exec (.memReadWord a) t = .next u ∧
    u.response = some v ∧ ∀ b : Word, b ≠ a → b ≠ a + 1#16 → u.readByte b = s.readByte b)

/-- O36, derived: 43_memory_ops.md section 4 (laws of the family). A second LOAD_IMAGE overwrites its own bytes only:
the tail of the first load stays. For every state and images d1, d2: loading d1 then d2 completes; bytes below
min(L2, 32768) are d2's, bytes from there below min(L1, 32768) are still d1's, and every byte from the greater of
the two clamped lengths up, those at 0x8000 and above always among them, is as before both. -/
def Obligations.SecondLoadKeepsTheTailOfTheFirst : Prop :=
  ∀ (s : State) (d1 d2 : List Byte), ∃ t u : State,
    exec (.loadImage d1) s = .next t ∧ exec (.loadImage d2) t = .next u ∧
    (∀ a : Word, a.toNat < min d2.length 32768 → d2[a.toNat]? = some (u.readByte a)) ∧
    (∀ a : Word, min d2.length 32768 ≤ a.toNat → a.toNat < min d1.length 32768 →
      d1[a.toNat]? = some (u.readByte a)) ∧
    (∀ a : Word, max (min d1.length 32768) (min d2.length 32768) ≤ a.toNat → u.readByte a = s.readByte a) ∧
    (∀ a : Word, 0x8000 ≤ a.toNat → u.readByte a = s.readByte a)

/-- O37, derived: 43_memory_ops.md section 3 (image load); 92_eei_decisions.md D17. LOAD_IMAGE's one-pass copy gives the
same memory as the spec's loop of byte writes (log 10). For every state with a canonical memory and every image: the
state after LOAD_IMAGE is the state the spec's loop gives, writing data[i] at address i for i from 0 to min(L,
32768) - 1 with the byte write MemWrite, its response none. The canonical memory is log 7. -/
def Obligations.LoadImageEqualsTheLoopOfByteWrites : Prop :=
  ∀ (s : State) (data : List Byte), s.mem.wf →
    exec (.loadImage data) s = .next
      ((data.take 32768).zipIdx.foldl (fun u (x : Byte × Nat) => u.writeByte (BitVec.ofNat 16 x.2) x.1) s).respondNone

/-- O38, derived: 20_memory.md section 3 (byte order). A pair read and then stored as one word puts the pair's second
register at the lower address. For every state, pair and address: PAIR_READ answers some w, and MEM_WRITE_WORD of w
completes with the second register (F, C, E or L) at the address and the first at the next one; and a word read at a
and one at next(a) share the byte at next(a). -/
def Obligations.PairStoredAsAWordPutsTheSecondRegisterLower : Prop :=
  ∀ (s : State) (p : Pair) (a : Word), ∃ (w : Word) (t u : State),
    exec (pairReadOf p) s = .next t ∧ t.response = some w ∧ exec (.memWriteWord a w) t = .next u ∧
    u.readByte a = s.rf.get (pairLow p) ∧ u.readByte (nextAddr a) = s.rf.get (pairHigh p) ∧
    ∃ x y : Word, exec (.memReadWord a) u = .next { u with response := some x } ∧
      exec (.memReadWord (nextAddr a)) u = .next { u with response := some y } ∧
      x.extractLsb' 8 8 = y.extractLsb' 0 8

/-- O39, derived: 20_memory.md section 6 (side effects); 10_state.md section 10 (access table); 30_encoding.md section 2
(response table). Every read command changes the response only and can be repeated; only reads answer a value. For
every command, state and next state: a read (REG_READ, PAIR_READ, FLAG_READ, MEM_READ_BYTE, MEM_READ_WORD) leaves
every field but the response as it was, answers a value, and answers the same again; every other command answers
none. -/
def Obligations.ReadsChangeOnlyTheResponse : Prop :=
  ∀ (i : Instr) (s t : State), exec i s = .next t →
    (isRead i = true → (∃ v : Word, t = { s with response := some v }) ∧ exec i t = .next t) ∧
    (isRead i = false → t.response = none)

/-- O40, stated: R190. RF_RESET completes with every register zero, memory unchanged, every pair view 0 and every flag
false. For every state: 0x01 decodes to RF_RESET, which completes with all ten registers zero, response none and
memory, pending requests and the mark as before; then every pair view is 0x0000 and every flag false, and a second
RF_RESET changes nothing. -/
def Obligations.RfResetZeroesTheRegisterFile : Prop :=
  ∀ s : State,
    decode ⟨0x01#8, 0, 0, []⟩ = .ok .rfReset ∧
    ∃ t : State, exec .rfReset s = .next t ∧
      t = { s with rf := ⟨0, 0, 0, 0, 0, 0, 0, 0, 0, 0⟩, response := none } ∧
      (∀ p : Pair, t.rf.getPair p = 0x0000#16) ∧ (∀ x : Flag, flagOf x t.rf.f = false) ∧
      exec .rfReset t = .next t

/-- O41, stated: R191. MEM_RESET completes with every byte 0x00 and every register unchanged. For every state: 0x02
decodes to MEM_RESET, which completes with M[a] = 0x00 at every address, response none and every register, the
pending requests and the mark as before; a second MEM_RESET changes nothing. -/
def Obligations.MemResetClearsEveryByte : Prop :=
  ∀ s : State,
    decode ⟨0x02#8, 0, 0, []⟩ = .ok .memReset ∧
    ∃ t : State, exec .memReset s = .next t ∧
      (∀ a : Word, t.readByte a = 0x00#8) ∧ t.rf = s.rf ∧ t.requests = s.requests ∧
      t.response = none ∧ t.refusals = s.refusals ∧ exec .memReset t = .next t

/-- O42, stated: R35; R36. After power-on or the reset commands every register, flag, pair view and byte is zero, and
every read of one completes. At power-on and after RF_RESET from any state every 8-bit register is 0x00, SP and PC
are 0x0000, every flag is false and every pair view reads 0x0000, and reading any of them before a write completes
and answers 0x0000; at power-on and after MEM_RESET from any state every byte reads 0x00, and MEM_READ_BYTE and
MEM_READ_WORD at every address complete and answer 0x0000. -/
def Obligations.PowerOnStateIsAllZero : Prop :=
  (∀ s : State, (s = State.reset ∨ ∃ s₀ : State, exec .rfReset s₀ = .next s) →
    (∀ r : Reg8, s.rf.get r = 0x00#8) ∧ s.rf.sp = 0x0000#16 ∧ s.rf.pc = 0x0000#16 ∧
    (∀ x : Flag, flagOf x s.rf.f = false) ∧ (∀ p : Pair, s.rf.getPair p = 0x0000#16) ∧
    (∀ r : Reg8, exec (regReadOf r) s = .next { s with response := some 0x0000#16 }) ∧
    (∀ p : Pointer, exec (pointerReadOf p) s = .next { s with response := some 0x0000#16 }) ∧
    (∀ p : Pair, exec (pairReadOf p) s = .next { s with response := some 0x0000#16 }) ∧
    (∀ x : Flag, exec (flagReadOf x) s = .next { s with response := some 0x0000#16 })) ∧
  (∀ s : State, (s = State.reset ∨ ∃ s₀ : State, exec .memReset s₀ = .next s) → ∀ a : Word,
    s.readByte a = 0x00#8 ∧
    exec (.memReadByte a) s = .next { s with response := some 0x0000#16 } ∧
    exec (.memReadWord a) s = .next { s with response := some 0x0000#16 })

/-- O43, stated: R230. Power-on is RF_RESET and MEM_RESET in either order, and leaves the refusal mark clear. From every
state RF_RESET then MEM_RESET, and MEM_RESET then RF_RESET, complete and give one and the same state, whose
registers and memory are those of State.reset; in State.reset the refusal mark is clear and every register, pair
view and byte is zero. -/
def Obligations.PowerOnIsBothResetsInEitherOrder : Prop :=
  (∀ s : State, ∃ t t' u : State,
    exec .rfReset s = .next t ∧ exec .memReset t = .next u ∧
    exec .memReset s = .next t' ∧ exec .rfReset t' = .next u ∧
    u.rf = State.reset.rf ∧ u.mem = State.reset.mem) ∧
  State.reset.refusals = [] ∧ (∀ r : Reg8, State.reset.rf.get r = 0x00#8) ∧
  (∀ p : Pointer, State.reset.rf.getPointer p = 0x0000#16) ∧ (∀ p : Pair, State.reset.rf.getPair p = 0x0000#16) ∧
  (∀ a : Word, State.reset.readByte a = 0x00#8)

/-- O44, stated: R200. Every command completes for every operand in every state, and no exception exists. For every
instruction with every operand value and every state, exec answers a next state; a well-formed request at the head
of the port makes step answer a next state; and the Fault type has no value: no exception can be raised. -/
def Obligations.EveryCommandCompletes : Prop :=
  (∀ (i : Instr) (s : State), ∃ t : State, exec i s = .next t) ∧
  (∀ (r : Request) (s : State), r.wellFormed = true → ∃ t : State, step (s.issue r) = .next t) ∧
  (∀ _ : Fault, False)

/-- O45, derived: 10_state.md section 2 (the 8-bit registers); 10_state.md section 3 (flags). Every step keeps bits 3 to
0 of F zero, whatever request it performs or refuses. For every state whose F has a zero low nibble and every next
state of step, F has a zero low nibble: REG_WRITE.F, PAIR_WRITE.AF, the flag writes and every other command, a
refusal and an idle step keep it. REG_WRITE.F keeps it by the decision D7 (log 5). -/
def Obligations.LowNibbleOfFStaysZero : Prop :=
  ∀ s t : State, s.flagNibbleZero → step s = .next t → t.flagNibbleZero

/-- O46, derived: 10_state.md section 8 (the memory array); 20_memory.md section 1 (the address space). Every step keeps
the memory list in its canonical form inside the 65536-byte array (log 7). For every state whose memory list is
canonical (addresses strictly rising, below 65536, no byte equal to what an unlisted address reads as) and every
next state of step, the memory is canonical again. The form is the model's way to hold the array (log 7). -/
def Obligations.MemoryStaysInCanonicalForm : Prop :=
  ∀ s t : State, s.mem.wf → step s = .next t → t.mem.wf

/-- O47, derived: 10_state.md section 3 (flags); 10_state.md section 9 (reset values). The power-on state has a zero low
nibble of F and a canonical memory (log 7). State.reset meets both invariants that every step keeps. The list of
cells and its canonical form are the model's way to hold the array (log 7). -/
def Obligations.PowerOnStateMeetsTheInvariant : Prop :=
  State.reset.flagNibbleZero ∧ State.reset.mem.wf

/-- O48, derived: 10_state.md section 8 (the memory array). Two canonical memories that read the same at every address
are the same data (log 7). The canonical form is unique: if two memory lists are canonical and every 16-bit address
reads the same in both, the lists are equal. The form is the model's way to hold the array (log 7). -/
def Obligations.CanonicalMemoriesWithEqualBytesAreEqual : Prop :=
  ∀ m k : Memory, m.wf → k.wf → (∀ a : Word, m.byteAt a.toNat = k.byteAt a.toNat) → m = k

/-- O49, stated: R26; R27. SP and PC are plain storage: only REG_WRITE of them and RF_RESET change them, and nothing
advances PC. For every command, state and next state: SP is the value of REG_WRITE.SP, zero after RF_RESET and
otherwise unchanged, and likewise PC with REG_WRITE.PC; every value can be written, and REG_READ.SP and REG_READ.PC
complete and answer it; a step changes SP only if it performs REG_WRITE.SP or RF_RESET, and PC only if it performs
REG_WRITE.PC or RF_RESET. Which request a step performs is log 1. -/
def Obligations.PointersChangeOnlyByTheirWriteOrReset : Prop :=
  (∀ (i : Instr) (s t : State), exec i s = .next t →
    t.rf.sp = (match i with | .regWriteSP v => v | .rfReset => 0x0000#16 | _ => s.rf.sp) ∧
    t.rf.pc = (match i with | .regWritePC v => v | .rfReset => 0x0000#16 | _ => s.rf.pc)) ∧
  (∀ (s : State) (p : Pointer) (v : Word), ∃ t u : State,
    exec (pointerWriteOf p v) s = .next t ∧ exec (pointerReadOf p) t = .next u ∧ u.response = some v) ∧
  (∀ s t : State, step s = .next t → t.rf.sp ≠ s.rf.sp →
    ∃ (r : Request) (rest : List Request), s.requests = r :: rest ∧
      (decode r = .ok .rfReset ∨ ∃ v : Word, decode r = .ok (.regWriteSP v))) ∧
  (∀ s t : State, step s = .next t → t.rf.pc ≠ s.rf.pc →
    ∃ (r : Request) (rest : List Request), s.requests = r :: rest ∧
      (decode r = .ok .rfReset ∨ ∃ v : Word, decode r = .ok (.regWritePC v)))

/-- O50, derived: 10_state.md section 10 (access table); 20_memory.md section 6 (side effects); 43_memory_ops.md section
4 (laws of the family). Every byte after any command is the byte the command stores there, or the byte it was. For
every command, state, next state and address: the byte read there after is the byte the command stores at that
address (its address computed as the meaning computes it), or the byte read there before; a command that is no
memory write, image load or MEM_RESET stores nothing. -/
def Obligations.MemoryChangesOnlyWhereACommandStores : Prop :=
  ∀ (i : Instr) (s t : State) (a : Word), exec i s = .next t →
    t.readByte a = (byteStored i a).getD (s.readByte a)

/-- O51, derived: 10_state.md section 10 (access table); 43_memory_ops.md section 4 (laws of the family). Every 8-bit
register after any command is what the command writes into it, or what it was; pending requests and refusal mark are
unchanged. For every command, state, next state and 8-bit register: the register holds what the command writes into
it (by the access table), or its value before; pending requests and the refusal mark are never changed by a command.
The mask of REG_WRITE.F is the decision D7 (log 5). -/
def Obligations.RegistersChangeOnlyAsTheAccessTableSays : Prop :=
  ∀ (i : Instr) (s t : State), exec i s = .next t →
    (∀ r : Reg8, t.rf.get r = (registerStored i r s.rf.f).getD (s.rf.get r)) ∧
    t.requests = s.requests ∧ t.refusals = s.refusals

/-- O52, stated: R2. No command of one component reads or writes the state of the other. For every command and two
states: a memory command leaves the RegisterFile, and its memory and response are the same in two states that differ
in registers only; every other command leaves the memory, and its registers and response are the same in two states
that differ in memory only. -/
def Obligations.ComponentsAreIndependent : Prop :=
  ∀ (i : Instr) (s s' t t' : State), exec i s = .next t → exec i s' = .next t' →
    (isMemoryCommand i = true →
      t.rf = s.rf ∧ (s.mem = s'.mem → t.mem = t'.mem ∧ t.response = t'.response)) ∧
    (isMemoryCommand i = false →
      t.mem = s.mem ∧ (s.rf = s'.rf → t.rf = t'.rf ∧ t.response = t'.response))

/-- O53, derived: 20_memory.md section 9 (ordering); 10_state.md section 1 (the whole state). After any command sequence
from power-on, every byte read answers the latest byte stored there, or 0x00. For every list of commands: performing
them from power-on completes, and then MEM_READ_BYTE at any address completes and answers the byte the latest
command that stores to that address stored there, or 0x00 where none did. So the list of cells, the model's way to
hold the array (log 7), behaves as the total array of R20. -/
def Obligations.EveryReadAnswersTheLatestWrite : Prop :=
  ∀ is : List Instr, ∃ t : State, performAll is State.reset = some t ∧
    ∀ a : Word, exec (.memReadByte a) t = .next { t with response := some ((latestByte is a).setWidth 16) }

/-- O54, derived: 30_encoding.md section 1 (the interface); 60_exceptions.md section 1 (exceptions);
70_reset_and_hazards.md section 2 (boot). A run from power-on performs any list of requests, one a step, and marks
exactly the ill-formed ones. For every list of requests pending at power-on: as many steps as there are requests
give a state with none pending, a zero low nibble of F, a canonical memory, and one recorded reason for each request
that is not well-formed (none if all are). The pending list (log 1), one kept reason for each refusal (log 4) and
the canonical memory (log 7) are the model's choices. -/
def Obligations.EveryRunFromPowerOnPerformsAllItsRequests : Prop :=
  ∀ rs : List Request, ∃ t : State,
    Host.Core.run Sys2Proof.core rs.length { State.reset with requests := rs } = .next t ∧
    t.requests = [] ∧ t.flagNibbleZero ∧ t.mem.wf ∧
    t.refusals.length = (rs.filter fun r => !r.wellFormed).length

/-- O55, derived: 20_memory.md section 6 (atomicity); 20_memory.md section 9 (multi-requester split);
92_eei_decisions.md D11, D17. The byte events of a split command, run with nothing between, do what the atomic
command does. For every command, every event sequence R69 admits for it and every state: running the events with no
other agent between gives the registers and every byte of memory that the command itself gives, whichever OPEN order
is taken; a split word read sees the two bytes of the word. GB-CORE itself has one requester, so each command is one
event (log 6). -/
def Obligations.UninterruptedSplitEqualsTheCommand : Prop :=
  (∀ (i : Instr) (es : List Event) (s t : State), SplitsInto i es → exec i s = .next t →
    (applyAll es s).rf = t.rf ∧ ∀ a : Word, (applyAll es s).readByte a = t.readByte a) ∧
  (∀ (a : Word) (es : List Event) (s : State), SplitsInto (.memReadWord a) es →
    (seenBytes es s).Perm [(a, s.readByte a), (nextAddr a, s.readByte (nextAddr a))]) ∧
  (∀ (i : Instr) (es : List Event), EventsOf Config.multiRequester i es ↔ es = [.whole i])

/-- O56, derived: 20_memory.md section 9 (multi-requester split); 70_reset_and_hazards.md section 3 (hazards);
92_eei_decisions.md D11. With a second requester a word read may see a new low and old high byte; one that reads the
high byte first never the reverse. For every state, address, value and every split R69 admits of the word write and
of the word read: the write stores its low byte first and then its high byte; the read may take its bytes in either
order; some interleaving sees the new low byte with the old high byte; and in every interleaving, a read of the high
byte first that sees it new (where it differs from the old) sees the low byte new too. GB-CORE has one requester
(log 6). -/
def Obligations.ConcurrentReaderMaySeeAHalfWrittenWord : Prop :=
  ∀ (s : State) (a v : Word) (ws rs : List Event),
    SplitsInto (.memWriteWord a v) ws → SplitsInto (.memReadWord a) rs →
    (∃ e₁ e₂ : Event, ws = [e₁, e₂] ∧
      (∀ b : Word, (e₁.apply s).readByte b = if b = a then lowByte v else s.readByte b) ∧
      (∀ b : Word, (e₂.apply s).readByte b = if b = nextAddr a then highByte v else s.readByte b)) ∧
    SplitsInto (.memReadWord a) [.read a, .read (nextAddr a)] ∧
    SplitsInto (.memReadWord a) [.read (nextAddr a), .read a] ∧
    (∃ zs : List Event, Interleaves ws rs zs ∧
      (seenBytes zs s).Perm [(a, lowByte v), (nextAddr a, s.readByte (nextAddr a))]) ∧
    (rs = [.read (nextAddr a), .read a] → s.readByte (nextAddr a) ≠ highByte v →
      ∀ zs : List Event, Interleaves ws rs zs → (nextAddr a, highByte v) ∈ seenBytes zs s →
        (a, lowByte v) ∈ seenBytes zs s)
end

