-- ==== Sys2Proof/Laws/Memory.lean ====
section
/-! SUPPORT. The memory array: a read after a write, what a write leaves alone, and the canonical form, for each
operation. The read laws hold of every list, canonical or not. -/

namespace Sys2Proof.Machine

@[simp] theorem Memory.byteAt_nil (n : Nat) : Memory.byteAt [] n = Config.unlistedByte := rfl

theorem Memory.byteAt_cons (x : Host.Cell) (m : Memory) (n : Nat) :
    Memory.byteAt (x :: m) n = if x.1 = n then x.2 else Memory.byteAt m n := rfl

/-- An address that no cell has reads as unlisted. -/
theorem Memory.byteAt_absent {m : Memory} {n : Nat} (h : ∀ x ∈ m, x.1 ≠ n) :
    m.byteAt n = Config.unlistedByte := by
  induction m with
  | nil => rfl
  | cons x m ih =>
    rw [Memory.byteAt_cons, if_neg (h x (by simp))]
    exact ih fun y hy => h y (by simp [hy])

theorem Memory.byteAt_append_left {m k : Memory} {n : Nat} (h : ∀ x ∈ m, x.1 ≠ n) :
    Memory.byteAt (m ++ k) n = Memory.byteAt k n := by
  induction m with
  | nil => rfl
  | cons x m ih =>
    rw [List.cons_append, Memory.byteAt_cons, if_neg (h x (by simp))]
    exact ih fun y hy => h y (by simp [hy])

theorem Memory.byteAt_append_right {m k : Memory} {n : Nat} (h : ∀ x ∈ k, x.1 ≠ n) :
    Memory.byteAt (m ++ k) n = Memory.byteAt m n := by
  induction m with
  | nil => exact Memory.byteAt_absent h
  | cons x m ih => rw [List.cons_append, Memory.byteAt_cons, Memory.byteAt_cons, ih]

/-- Keeping the cells whose address passes a test keeps the bytes at those addresses. -/
theorem Memory.byteAt_filter {m : Memory} {n : Nat} (p : Nat → Bool) (h : p n = true) :
    Memory.byteAt (m.filter fun x => p x.1) n = Memory.byteAt m n := by
  induction m with
  | nil => rfl
  | cons x m ih =>
    by_cases hx : p x.1 = true
    · rw [List.filter_cons_of_pos (by simpa using hx), Memory.byteAt_cons, Memory.byteAt_cons, ih]
    · have hne : x.1 ≠ n := fun e => hx (e ▸ h)
      rw [List.filter_cons_of_neg (by simpa using hx), Memory.byteAt_cons, if_neg hne, ih]

theorem Memory.forget_absent (m : Memory) (n : Nat) : ∀ x ∈ m.forget n, x.1 ≠ n := by
  intro x hx
  simpa using (List.mem_filter.mp hx).2

theorem Memory.byteAt_forget_same (m : Memory) (n : Nat) : (m.forget n).byteAt n = Config.unlistedByte :=
  Memory.byteAt_absent (m.forget_absent n)

theorem Memory.byteAt_forget_other (m : Memory) {n k : Nat} (h : k ≠ n) :
    (m.forget n).byteAt k = m.byteAt k :=
  Memory.byteAt_filter (fun j => decide (j ≠ n)) (by simpa using h)

theorem Memory.mem_place {m : Memory} {x y : Host.Cell} : y ∈ m.place x ↔ y = x ∨ y ∈ m := by
  induction m with
  | nil => simp [Memory.place]
  | cons z m ih =>
    unfold Memory.place
    split
    · simp
    · simp only [List.mem_cons, ih]; tauto

theorem Memory.byteAt_place {m : Memory} {x : Host.Cell} (h : ∀ y ∈ m, y.1 ≠ x.1) (n : Nat) :
    (m.place x).byteAt n = if x.1 = n then x.2 else m.byteAt n := by
  induction m with
  | nil => rfl
  | cons y m ih =>
    unfold Memory.place
    split
    · rfl
    · have hy : y.1 ≠ x.1 := h y (by simp)
      rw [Memory.byteAt_cons, ih fun z hz => h z (by simp [hz]), Memory.byteAt_cons]
      by_cases hxn : x.1 = n
      · have hyn : y.1 ≠ n := hxn ▸ hy
        simp [hxn, hyn]
      · rw [if_neg hxn]; simp [hxn]

/-- What every byte reads as after a byte write: the value at the address written, every other byte as
before (R56, R175). -/
theorem Memory.byteAt_setByte (m : Memory) (n : Nat) (v : Byte) (k : Nat) :
    (m.setByte n v).byteAt k = if n = k then v else m.byteAt k := by
  unfold Memory.setByte
  by_cases hv : v = Config.unlistedByte
  · rw [if_pos hv]
    by_cases hk : n = k
    · subst hk; rw [if_pos rfl, Memory.byteAt_forget_same, hv]
    · rw [if_neg hk, Memory.byteAt_forget_other _ (Ne.symm hk)]
  · rw [if_neg hv, Memory.byteAt_place (Memory.forget_absent m n)]
    by_cases hk : n = k
    · simp [hk]
    · simp [hk, Memory.byteAt_forget_other _ (Ne.symm hk)]

theorem Memory.wf_nil : Memory.wf [] := ⟨List.Pairwise.nil, by simp⟩

theorem Memory.wf_filter {m : Memory} (h : m.wf) (p : Host.Cell → Bool) : Memory.wf (m.filter p) :=
  ⟨h.1.filter p, fun x hx => h.2 x (List.mem_filter.mp hx).1⟩

theorem Memory.pairwise_place {m : Memory} {x : Host.Cell} (h : m.Pairwise fun y z => y.1 < z.1)
    (hx : ∀ y ∈ m, y.1 ≠ x.1) : (m.place x).Pairwise fun y z => y.1 < z.1 := by
  induction m with
  | nil => simp [Memory.place]
  | cons y m ih =>
    rw [List.pairwise_cons] at h
    unfold Memory.place
    split
    · rename_i hlt
      refine List.Pairwise.cons (fun z hz => ?_) (List.pairwise_cons.mpr h)
      rcases List.mem_cons.mp hz with rfl | hz
      · exact hlt
      · exact lt_trans hlt (h.1 z hz)
    · rename_i hlt
      refine List.Pairwise.cons (fun z hz => ?_) (ih h.2 fun z hz => hx z (by simp [hz]))
      rcases Memory.mem_place.mp hz with rfl | hz
      · exact lt_of_le_of_ne (not_lt.mp hlt) (hx y (by simp))
      · exact h.1 z hz

/-- A byte write inside the array keeps the canonical form. -/
theorem Memory.wf_setByte {m : Memory} (h : m.wf) {n : Nat} (hn : n < Config.memSize) (v : Byte) :
    (m.setByte n v).wf := by
  unfold Memory.setByte
  by_cases hv : v = Config.unlistedByte
  · rw [if_pos hv]; exact Memory.wf_filter h _
  · rw [if_neg hv]
    have hf : (m.forget n).wf := Memory.wf_filter h _
    refine ⟨Memory.pairwise_place hf.1 (m.forget_absent n), fun x hx => ?_⟩
    rcases Memory.mem_place.mp hx with rfl | hx
    · exact ⟨hn, hv⟩
    · exact hf.2 x hx

/-- The cells of an image that lies at address n have addresses from n up to its end. -/
theorem Memory.imageCells_range {n : Nat} {vs : List Byte} :
    ∀ x ∈ Memory.imageCells n vs, n ≤ x.1 ∧ x.1 < n + vs.length ∧ x.2 ≠ Config.unlistedByte := by
  induction vs generalizing n with
  | nil => simp [Memory.imageCells]
  | cons v vs ih =>
    intro x hx
    unfold Memory.imageCells at hx
    split at hx
    · obtain ⟨h1, h2, h3⟩ := ih x hx
      exact ⟨by omega, by simp only [List.length_cons]; omega, h3⟩
    · rename_i hv
      rcases List.mem_cons.mp hx with rfl | hx
      · exact ⟨le_refl _, by simp, hv⟩
      · obtain ⟨h1, h2, h3⟩ := ih x hx
        exact ⟨by omega, by simp only [List.length_cons]; omega, h3⟩

theorem Memory.imageCells_pairwise (n : Nat) (vs : List Byte) :
    (Memory.imageCells n vs).Pairwise fun x y => x.1 < y.1 := by
  induction vs generalizing n with
  | nil => exact List.Pairwise.nil
  | cons v vs ih =>
    unfold Memory.imageCells
    split
    · exact ih (n + 1)
    · exact List.Pairwise.cons (fun y hy => (Memory.imageCells_range y hy).1) (ih (n + 1))

/-- The byte of an image at an address inside it. -/
theorem Memory.byteAt_imageCells {n : Nat} {vs : List Byte} {k : Nat} (h1 : n ≤ k) (h2 : k < n + vs.length) :
    vs[k - n]? = some ((Memory.imageCells n vs).byteAt k) := by
  induction vs generalizing n with
  | nil => simp at h2; omega
  | cons v vs ih =>
    simp only [List.length_cons] at h2
    unfold Memory.imageCells
    by_cases hk : k = n
    · subst hk
      have habs : Memory.byteAt (Memory.imageCells (k + 1) vs) k = Config.unlistedByte :=
        Memory.byteAt_absent fun x hx => by have := (Memory.imageCells_range x hx).1; omega
      split
      · rename_i hv; rw [habs, Nat.sub_self, hv]; rfl
      · rw [Memory.byteAt_cons, if_pos rfl, Nat.sub_self]; rfl
    · have hrest := ih (n := n + 1) (by omega) (by omega)
      have hidx : k - n = (k - (n + 1)) + 1 := by omega
      rw [hidx, List.getElem?_cons_succ, hrest]
      split
      · rfl
      · rw [Memory.byteAt_cons, if_neg (by simpa using Ne.symm hk)]

/-- A byte inside the copied part of an image, after LOAD_IMAGE (R174, R177). -/
theorem Memory.byteAt_load_inside (m : Memory) {data : List Byte} {k : Nat} (h1 : k < data.length)
    (h2 : k < Config.loadWindow) : data[k]? = some ((m.load data).byteAt k) := by
  have hlen : k < (data.take Config.loadWindow).length := by rw [List.length_take]; omega
  unfold Memory.load
  rw [Memory.byteAt_append_right fun x hx => by
    have := (List.mem_filter.mp hx).2
    simp only [decide_eq_true_eq] at this
    omega]
  have h := Memory.byteAt_imageCells (n := 0) (vs := data.take Config.loadWindow) (Nat.zero_le k) (by omega)
  rw [← h, Nat.sub_zero, List.getElem?_take_of_lt h2]

/-- A byte outside the copied part of an image keeps its value (R174, R176, R177). -/
theorem Memory.byteAt_load_outside (m : Memory) {data : List Byte} {k : Nat}
    (h : data.length ≤ k ∨ Config.loadWindow ≤ k) : (m.load data).byteAt k = m.byteAt k := by
  have hlen : (data.take Config.loadWindow).length ≤ k := by rw [List.length_take]; omega
  unfold Memory.load
  rw [Memory.byteAt_append_left fun x hx => by
    have := (Memory.imageCells_range x hx).2.1
    omega]
  exact Memory.byteAt_filter (fun j => decide ((data.take Config.loadWindow).length ≤ j)) (by simpa using hlen)

/-- LOAD_IMAGE keeps the canonical form. -/
theorem Memory.wf_load {m : Memory} (h : m.wf) (data : List Byte) : (m.load data).wf := by
  have hf := Memory.wf_filter h fun x => decide ((data.take Config.loadWindow).length ≤ x.1)
  refine ⟨List.pairwise_append.mpr ⟨Memory.imageCells_pairwise _ _, hf.1, fun x hx y hy => ?_⟩, fun x hx => ?_⟩
  · have h1 := (Memory.imageCells_range x hx).2.1
    have h2 := (List.mem_filter.mp hy).2
    simp only [decide_eq_true_eq] at h2
    omega
  · rcases List.mem_append.mp hx with hx | hx
    · obtain ⟨-, h2, h3⟩ := Memory.imageCells_range x hx
      refine ⟨?_, h3⟩
      have : (data.take Config.loadWindow).length ≤ Config.loadWindow := by rw [List.length_take]; omega
      have : Config.loadWindow < Config.memSize := by decide
      omega
    · exact hf.2 x hx

/-- Every byte, listed or not, has the value of the cell that holds its address, if a canonical memory has
one. -/
theorem Memory.byteAt_of_mem {m : Memory} (h : m.Pairwise fun x y => x.1 < y.1) {x : Host.Cell} (hx : x ∈ m) :
    m.byteAt x.1 = x.2 := by
  induction m with
  | nil => cases hx
  | cons y m ih =>
    rw [List.pairwise_cons] at h
    rcases List.mem_cons.mp hx with rfl | hx
    · rw [Memory.byteAt_cons, if_pos rfl]
    · rw [Memory.byteAt_cons, if_neg (ne_of_lt (h.1 x hx)), ih h.2 hx]

end Sys2Proof.Machine
end

