-- ==== Sys2Proof/Laws/Operands.lean ====
section
/-! SUPPORT. Laws of the value helpers: halves and concatenation of 16-bit values, the masks of F, the flag bits. -/

namespace Sys2Proof.Machine

/-- The bits of the joined value: the low byte in bits 7:0, the high byte in bits 15:8 (R11, R28, R55). -/
theorem getLsbD_joinBytes (hi lo : Byte) (i : Nat) :
    (joinBytes hi lo).getLsbD i = if i < 8 then lo.getLsbD i else hi.getLsbD (i - 8) := by
  unfold joinBytes zext16
  by_cases h : i < 8
  · have : i < 16 := by omega
    simp [h, this]
  · by_cases h16 : i < 16
    · have : lo.getLsbD i = false := BitVec.getLsbD_of_ge _ _ (by omega)
      simp [h, h16, this]
    · have : hi.getLsbD (i - 8) = false := BitVec.getLsbD_of_ge _ _ (by omega)
      simp [h, h16, this]

theorem highByte_joinBytes (hi lo : Byte) : highByte (joinBytes hi lo) = hi := by
  unfold highByte
  apply BitVec.eq_of_getLsbD_eq
  intro i h
  simp [getLsbD_joinBytes, h]

theorem lowByte_joinBytes (hi lo : Byte) : lowByte (joinBytes hi lo) = lo := by
  unfold lowByte
  apply BitVec.eq_of_getLsbD_eq
  intro i h
  simp [getLsbD_joinBytes, h]

theorem joinBytes_high_low (v : Word) : joinBytes (highByte v) (lowByte v) = v := by
  apply BitVec.eq_of_getLsbD_eq
  intro i h
  rw [getLsbD_joinBytes]
  unfold highByte lowByte
  by_cases h8 : i < 8
  · simp [h8]
  · simp [h8, show i - 8 < 8 by omega, show 8 + (i - 8) = i by omega]

theorem toNat_nextAddr (a : Word) : (nextAddr a).toNat = (a.toNat + 1) % 65536 := by
  simp [nextAddr, BitVec.toNat_add]

theorem nextAddr_ne (a : Word) : nextAddr a ≠ a := by
  intro h
  have := congrArg BitVec.toNat h
  rw [toNat_nextAddr] at this
  have := a.isLt
  omega

theorem regWriteByte_general {r : Reg8} (h : r ≠ .f) (v : Byte) : regWriteByte r v = v := by
  cases r <;> first | rfl | exact absurd rfl h

theorem pairWriteLow_general {p : Pair} (h : p ≠ .af) (v : Word) : pairWriteLow p v = lowByte v := by
  cases p <;> first | rfl | exact absurd rfl h

/-- A flag write decides exactly its own flag: the others keep their value. -/
theorem flagOf_withFlag (x y : Flag) (on : Bool) (f : Byte) :
    flagOf y (withFlag x on f) = if y = x then on else flagOf y f := by
  cases on <;> cases x <;> cases y <;>
    simp [flagOf, withFlag, flagBit, flagSetMask, flagClearMask]

/-- A flag write keeps the low nibble of F. -/
theorem withFlag_lowNibble (x : Flag) (on : Bool) (f : Byte) :
    (withFlag x on f).extractLsb' 0 4 = f.extractLsb' 0 4 := by
  cases on <;> cases x <;> simp only [withFlag, flagSetMask, flagClearMask] <;> ext i h <;>
    (have : i = 0 ∨ i = 1 ∨ i = 2 ∨ i = 3 := by omega) <;> rcases this with rfl | rfl | rfl | rfl <;> simp

/-- A byte masked with 0xF0 has a zero low nibble. -/
theorem masked_lowNibble (v : Byte) : (v &&& 0xF0#8).extractLsb' 0 4 = 0#4 := by
  ext i h
  have : i = 0 ∨ i = 1 ∨ i = 2 ∨ i = 3 := by omega
  rcases this with rfl | rfl | rfl | rfl <;> simp

end Sys2Proof.Machine
end

