-- ==== Sys2Proof/Laws/State.lean ====
section
/-! SUPPORT. What each update of State does to each field, and each update of one register of the RegisterFile
to each of its fields: one lemma per field per update, true by rfl. -/

namespace Sys2Proof.Machine

@[simp] theorem State.respond_rf (s : State) (v : Word) : (s.respond v).rf = s.rf := rfl
@[simp] theorem State.respond_mem (s : State) (v : Word) : (s.respond v).mem = s.mem := rfl
@[simp] theorem State.respond_requests (s : State) (v : Word) : (s.respond v).requests = s.requests := rfl
@[simp] theorem State.respond_response (s : State) (v : Word) : (s.respond v).response = some v := rfl
@[simp] theorem State.respond_refusals (s : State) (v : Word) : (s.respond v).refusals = s.refusals := rfl

@[simp] theorem State.respondNone_rf (s : State) : (s.respondNone).rf = s.rf := rfl
@[simp] theorem State.respondNone_mem (s : State) : (s.respondNone).mem = s.mem := rfl
@[simp] theorem State.respondNone_requests (s : State) : (s.respondNone).requests = s.requests := rfl
@[simp] theorem State.respondNone_response (s : State) : (s.respondNone).response = none := rfl
@[simp] theorem State.respondNone_refusals (s : State) : (s.respondNone).refusals = s.refusals := rfl

@[simp] theorem State.refuse_rf (s : State) (c : Check) : (s.refuse c).rf = s.rf := rfl
@[simp] theorem State.refuse_mem (s : State) (c : Check) : (s.refuse c).mem = s.mem := rfl
@[simp] theorem State.refuse_requests (s : State) (c : Check) : (s.refuse c).requests = s.requests := rfl
@[simp] theorem State.refuse_response (s : State) (c : Check) : (s.refuse c).response = none := rfl
@[simp] theorem State.refuse_refusals (s : State) (c : Check) : (s.refuse c).refusals = s.refusals ++ [c] := rfl

@[simp] theorem State.issue_rf (s : State) (r : Request) : (s.issue r).rf = s.rf := rfl
@[simp] theorem State.issue_mem (s : State) (r : Request) : (s.issue r).mem = s.mem := rfl
@[simp] theorem State.issue_requests (s : State) (r : Request) : (s.issue r).requests = r :: s.requests := rfl
@[simp] theorem State.issue_response (s : State) (r : Request) : (s.issue r).response = s.response := rfl
@[simp] theorem State.issue_refusals (s : State) (r : Request) : (s.issue r).refusals = s.refusals := rfl

@[simp] theorem State.idle_rf (s : State) : (s.idle).rf = s.rf := rfl
@[simp] theorem State.idle_mem (s : State) : (s.idle).mem = s.mem := rfl
@[simp] theorem State.idle_requests (s : State) : (s.idle).requests = s.requests := rfl
@[simp] theorem State.idle_response (s : State) : (s.idle).response = s.response := rfl
@[simp] theorem State.idle_refusals (s : State) : (s.idle).refusals = s.refusals := rfl

@[simp] theorem State.writeByte_rf (s : State) (a : Word) (v : Byte) : (s.writeByte a v).rf = s.rf := rfl
@[simp] theorem State.writeByte_mem (s : State) (a : Word) (v : Byte) : (s.writeByte a v).mem = s.mem.setByte a.toNat v := rfl
@[simp] theorem State.writeByte_requests (s : State) (a : Word) (v : Byte) : (s.writeByte a v).requests = s.requests := rfl
@[simp] theorem State.writeByte_response (s : State) (a : Word) (v : Byte) : (s.writeByte a v).response = s.response := rfl
@[simp] theorem State.writeByte_refusals (s : State) (a : Word) (v : Byte) : (s.writeByte a v).refusals = s.refusals := rfl

@[simp] theorem State.writeWord_rf (s : State) (a v : Word) : (s.writeWord a v).rf = s.rf := rfl
@[simp] theorem State.writeWord_mem (s : State) (a v : Word) : (s.writeWord a v).mem = (s.mem.setByte a.toNat (lowByte v)).setByte (nextAddr a).toNat (highByte v) := rfl
@[simp] theorem State.writeWord_requests (s : State) (a v : Word) : (s.writeWord a v).requests = s.requests := rfl
@[simp] theorem State.writeWord_response (s : State) (a v : Word) : (s.writeWord a v).response = s.response := rfl
@[simp] theorem State.writeWord_refusals (s : State) (a v : Word) : (s.writeWord a v).refusals = s.refusals := rfl

@[simp] theorem RegisterFile.set_a_a (rf : RegisterFile) (v : Byte) : (rf.set .a v).a = v := rfl
@[simp] theorem RegisterFile.set_a_b (rf : RegisterFile) (v : Byte) : (rf.set .a v).b = rf.b := rfl
@[simp] theorem RegisterFile.set_a_c (rf : RegisterFile) (v : Byte) : (rf.set .a v).c = rf.c := rfl
@[simp] theorem RegisterFile.set_a_d (rf : RegisterFile) (v : Byte) : (rf.set .a v).d = rf.d := rfl
@[simp] theorem RegisterFile.set_a_e (rf : RegisterFile) (v : Byte) : (rf.set .a v).e = rf.e := rfl
@[simp] theorem RegisterFile.set_a_f (rf : RegisterFile) (v : Byte) : (rf.set .a v).f = rf.f := rfl
@[simp] theorem RegisterFile.set_a_h (rf : RegisterFile) (v : Byte) : (rf.set .a v).h = rf.h := rfl
@[simp] theorem RegisterFile.set_a_l (rf : RegisterFile) (v : Byte) : (rf.set .a v).l = rf.l := rfl
@[simp] theorem RegisterFile.set_a_sp (rf : RegisterFile) (v : Byte) : (rf.set .a v).sp = rf.sp := rfl
@[simp] theorem RegisterFile.set_a_pc (rf : RegisterFile) (v : Byte) : (rf.set .a v).pc = rf.pc := rfl

@[simp] theorem RegisterFile.set_b_a (rf : RegisterFile) (v : Byte) : (rf.set .b v).a = rf.a := rfl
@[simp] theorem RegisterFile.set_b_b (rf : RegisterFile) (v : Byte) : (rf.set .b v).b = v := rfl
@[simp] theorem RegisterFile.set_b_c (rf : RegisterFile) (v : Byte) : (rf.set .b v).c = rf.c := rfl
@[simp] theorem RegisterFile.set_b_d (rf : RegisterFile) (v : Byte) : (rf.set .b v).d = rf.d := rfl
@[simp] theorem RegisterFile.set_b_e (rf : RegisterFile) (v : Byte) : (rf.set .b v).e = rf.e := rfl
@[simp] theorem RegisterFile.set_b_f (rf : RegisterFile) (v : Byte) : (rf.set .b v).f = rf.f := rfl
@[simp] theorem RegisterFile.set_b_h (rf : RegisterFile) (v : Byte) : (rf.set .b v).h = rf.h := rfl
@[simp] theorem RegisterFile.set_b_l (rf : RegisterFile) (v : Byte) : (rf.set .b v).l = rf.l := rfl
@[simp] theorem RegisterFile.set_b_sp (rf : RegisterFile) (v : Byte) : (rf.set .b v).sp = rf.sp := rfl
@[simp] theorem RegisterFile.set_b_pc (rf : RegisterFile) (v : Byte) : (rf.set .b v).pc = rf.pc := rfl

@[simp] theorem RegisterFile.set_c_a (rf : RegisterFile) (v : Byte) : (rf.set .c v).a = rf.a := rfl
@[simp] theorem RegisterFile.set_c_b (rf : RegisterFile) (v : Byte) : (rf.set .c v).b = rf.b := rfl
@[simp] theorem RegisterFile.set_c_c (rf : RegisterFile) (v : Byte) : (rf.set .c v).c = v := rfl
@[simp] theorem RegisterFile.set_c_d (rf : RegisterFile) (v : Byte) : (rf.set .c v).d = rf.d := rfl
@[simp] theorem RegisterFile.set_c_e (rf : RegisterFile) (v : Byte) : (rf.set .c v).e = rf.e := rfl
@[simp] theorem RegisterFile.set_c_f (rf : RegisterFile) (v : Byte) : (rf.set .c v).f = rf.f := rfl
@[simp] theorem RegisterFile.set_c_h (rf : RegisterFile) (v : Byte) : (rf.set .c v).h = rf.h := rfl
@[simp] theorem RegisterFile.set_c_l (rf : RegisterFile) (v : Byte) : (rf.set .c v).l = rf.l := rfl
@[simp] theorem RegisterFile.set_c_sp (rf : RegisterFile) (v : Byte) : (rf.set .c v).sp = rf.sp := rfl
@[simp] theorem RegisterFile.set_c_pc (rf : RegisterFile) (v : Byte) : (rf.set .c v).pc = rf.pc := rfl

@[simp] theorem RegisterFile.set_d_a (rf : RegisterFile) (v : Byte) : (rf.set .d v).a = rf.a := rfl
@[simp] theorem RegisterFile.set_d_b (rf : RegisterFile) (v : Byte) : (rf.set .d v).b = rf.b := rfl
@[simp] theorem RegisterFile.set_d_c (rf : RegisterFile) (v : Byte) : (rf.set .d v).c = rf.c := rfl
@[simp] theorem RegisterFile.set_d_d (rf : RegisterFile) (v : Byte) : (rf.set .d v).d = v := rfl
@[simp] theorem RegisterFile.set_d_e (rf : RegisterFile) (v : Byte) : (rf.set .d v).e = rf.e := rfl
@[simp] theorem RegisterFile.set_d_f (rf : RegisterFile) (v : Byte) : (rf.set .d v).f = rf.f := rfl
@[simp] theorem RegisterFile.set_d_h (rf : RegisterFile) (v : Byte) : (rf.set .d v).h = rf.h := rfl
@[simp] theorem RegisterFile.set_d_l (rf : RegisterFile) (v : Byte) : (rf.set .d v).l = rf.l := rfl
@[simp] theorem RegisterFile.set_d_sp (rf : RegisterFile) (v : Byte) : (rf.set .d v).sp = rf.sp := rfl
@[simp] theorem RegisterFile.set_d_pc (rf : RegisterFile) (v : Byte) : (rf.set .d v).pc = rf.pc := rfl

@[simp] theorem RegisterFile.set_e_a (rf : RegisterFile) (v : Byte) : (rf.set .e v).a = rf.a := rfl
@[simp] theorem RegisterFile.set_e_b (rf : RegisterFile) (v : Byte) : (rf.set .e v).b = rf.b := rfl
@[simp] theorem RegisterFile.set_e_c (rf : RegisterFile) (v : Byte) : (rf.set .e v).c = rf.c := rfl
@[simp] theorem RegisterFile.set_e_d (rf : RegisterFile) (v : Byte) : (rf.set .e v).d = rf.d := rfl
@[simp] theorem RegisterFile.set_e_e (rf : RegisterFile) (v : Byte) : (rf.set .e v).e = v := rfl
@[simp] theorem RegisterFile.set_e_f (rf : RegisterFile) (v : Byte) : (rf.set .e v).f = rf.f := rfl
@[simp] theorem RegisterFile.set_e_h (rf : RegisterFile) (v : Byte) : (rf.set .e v).h = rf.h := rfl
@[simp] theorem RegisterFile.set_e_l (rf : RegisterFile) (v : Byte) : (rf.set .e v).l = rf.l := rfl
@[simp] theorem RegisterFile.set_e_sp (rf : RegisterFile) (v : Byte) : (rf.set .e v).sp = rf.sp := rfl
@[simp] theorem RegisterFile.set_e_pc (rf : RegisterFile) (v : Byte) : (rf.set .e v).pc = rf.pc := rfl

@[simp] theorem RegisterFile.set_f_a (rf : RegisterFile) (v : Byte) : (rf.set .f v).a = rf.a := rfl
@[simp] theorem RegisterFile.set_f_b (rf : RegisterFile) (v : Byte) : (rf.set .f v).b = rf.b := rfl
@[simp] theorem RegisterFile.set_f_c (rf : RegisterFile) (v : Byte) : (rf.set .f v).c = rf.c := rfl
@[simp] theorem RegisterFile.set_f_d (rf : RegisterFile) (v : Byte) : (rf.set .f v).d = rf.d := rfl
@[simp] theorem RegisterFile.set_f_e (rf : RegisterFile) (v : Byte) : (rf.set .f v).e = rf.e := rfl
@[simp] theorem RegisterFile.set_f_f (rf : RegisterFile) (v : Byte) : (rf.set .f v).f = v := rfl
@[simp] theorem RegisterFile.set_f_h (rf : RegisterFile) (v : Byte) : (rf.set .f v).h = rf.h := rfl
@[simp] theorem RegisterFile.set_f_l (rf : RegisterFile) (v : Byte) : (rf.set .f v).l = rf.l := rfl
@[simp] theorem RegisterFile.set_f_sp (rf : RegisterFile) (v : Byte) : (rf.set .f v).sp = rf.sp := rfl
@[simp] theorem RegisterFile.set_f_pc (rf : RegisterFile) (v : Byte) : (rf.set .f v).pc = rf.pc := rfl

@[simp] theorem RegisterFile.set_h_a (rf : RegisterFile) (v : Byte) : (rf.set .h v).a = rf.a := rfl
@[simp] theorem RegisterFile.set_h_b (rf : RegisterFile) (v : Byte) : (rf.set .h v).b = rf.b := rfl
@[simp] theorem RegisterFile.set_h_c (rf : RegisterFile) (v : Byte) : (rf.set .h v).c = rf.c := rfl
@[simp] theorem RegisterFile.set_h_d (rf : RegisterFile) (v : Byte) : (rf.set .h v).d = rf.d := rfl
@[simp] theorem RegisterFile.set_h_e (rf : RegisterFile) (v : Byte) : (rf.set .h v).e = rf.e := rfl
@[simp] theorem RegisterFile.set_h_f (rf : RegisterFile) (v : Byte) : (rf.set .h v).f = rf.f := rfl
@[simp] theorem RegisterFile.set_h_h (rf : RegisterFile) (v : Byte) : (rf.set .h v).h = v := rfl
@[simp] theorem RegisterFile.set_h_l (rf : RegisterFile) (v : Byte) : (rf.set .h v).l = rf.l := rfl
@[simp] theorem RegisterFile.set_h_sp (rf : RegisterFile) (v : Byte) : (rf.set .h v).sp = rf.sp := rfl
@[simp] theorem RegisterFile.set_h_pc (rf : RegisterFile) (v : Byte) : (rf.set .h v).pc = rf.pc := rfl

@[simp] theorem RegisterFile.set_l_a (rf : RegisterFile) (v : Byte) : (rf.set .l v).a = rf.a := rfl
@[simp] theorem RegisterFile.set_l_b (rf : RegisterFile) (v : Byte) : (rf.set .l v).b = rf.b := rfl
@[simp] theorem RegisterFile.set_l_c (rf : RegisterFile) (v : Byte) : (rf.set .l v).c = rf.c := rfl
@[simp] theorem RegisterFile.set_l_d (rf : RegisterFile) (v : Byte) : (rf.set .l v).d = rf.d := rfl
@[simp] theorem RegisterFile.set_l_e (rf : RegisterFile) (v : Byte) : (rf.set .l v).e = rf.e := rfl
@[simp] theorem RegisterFile.set_l_f (rf : RegisterFile) (v : Byte) : (rf.set .l v).f = rf.f := rfl
@[simp] theorem RegisterFile.set_l_h (rf : RegisterFile) (v : Byte) : (rf.set .l v).h = rf.h := rfl
@[simp] theorem RegisterFile.set_l_l (rf : RegisterFile) (v : Byte) : (rf.set .l v).l = v := rfl
@[simp] theorem RegisterFile.set_l_sp (rf : RegisterFile) (v : Byte) : (rf.set .l v).sp = rf.sp := rfl
@[simp] theorem RegisterFile.set_l_pc (rf : RegisterFile) (v : Byte) : (rf.set .l v).pc = rf.pc := rfl

@[simp] theorem RegisterFile.setPointer_sp_a (rf : RegisterFile) (v : Word) : (rf.setPointer .sp v).a = rf.a := rfl
@[simp] theorem RegisterFile.setPointer_sp_b (rf : RegisterFile) (v : Word) : (rf.setPointer .sp v).b = rf.b := rfl
@[simp] theorem RegisterFile.setPointer_sp_c (rf : RegisterFile) (v : Word) : (rf.setPointer .sp v).c = rf.c := rfl
@[simp] theorem RegisterFile.setPointer_sp_d (rf : RegisterFile) (v : Word) : (rf.setPointer .sp v).d = rf.d := rfl
@[simp] theorem RegisterFile.setPointer_sp_e (rf : RegisterFile) (v : Word) : (rf.setPointer .sp v).e = rf.e := rfl
@[simp] theorem RegisterFile.setPointer_sp_f (rf : RegisterFile) (v : Word) : (rf.setPointer .sp v).f = rf.f := rfl
@[simp] theorem RegisterFile.setPointer_sp_h (rf : RegisterFile) (v : Word) : (rf.setPointer .sp v).h = rf.h := rfl
@[simp] theorem RegisterFile.setPointer_sp_l (rf : RegisterFile) (v : Word) : (rf.setPointer .sp v).l = rf.l := rfl
@[simp] theorem RegisterFile.setPointer_sp_sp (rf : RegisterFile) (v : Word) : (rf.setPointer .sp v).sp = v := rfl
@[simp] theorem RegisterFile.setPointer_sp_pc (rf : RegisterFile) (v : Word) : (rf.setPointer .sp v).pc = rf.pc := rfl

@[simp] theorem RegisterFile.setPointer_pc_a (rf : RegisterFile) (v : Word) : (rf.setPointer .pc v).a = rf.a := rfl
@[simp] theorem RegisterFile.setPointer_pc_b (rf : RegisterFile) (v : Word) : (rf.setPointer .pc v).b = rf.b := rfl
@[simp] theorem RegisterFile.setPointer_pc_c (rf : RegisterFile) (v : Word) : (rf.setPointer .pc v).c = rf.c := rfl
@[simp] theorem RegisterFile.setPointer_pc_d (rf : RegisterFile) (v : Word) : (rf.setPointer .pc v).d = rf.d := rfl
@[simp] theorem RegisterFile.setPointer_pc_e (rf : RegisterFile) (v : Word) : (rf.setPointer .pc v).e = rf.e := rfl
@[simp] theorem RegisterFile.setPointer_pc_f (rf : RegisterFile) (v : Word) : (rf.setPointer .pc v).f = rf.f := rfl
@[simp] theorem RegisterFile.setPointer_pc_h (rf : RegisterFile) (v : Word) : (rf.setPointer .pc v).h = rf.h := rfl
@[simp] theorem RegisterFile.setPointer_pc_l (rf : RegisterFile) (v : Word) : (rf.setPointer .pc v).l = rf.l := rfl
@[simp] theorem RegisterFile.setPointer_pc_sp (rf : RegisterFile) (v : Word) : (rf.setPointer .pc v).sp = rf.sp := rfl
@[simp] theorem RegisterFile.setPointer_pc_pc (rf : RegisterFile) (v : Word) : (rf.setPointer .pc v).pc = v := rfl

@[simp] theorem RegisterFile.get_a (rf : RegisterFile) : rf.get .a = rf.a := rfl
@[simp] theorem RegisterFile.get_b (rf : RegisterFile) : rf.get .b = rf.b := rfl
@[simp] theorem RegisterFile.get_c (rf : RegisterFile) : rf.get .c = rf.c := rfl
@[simp] theorem RegisterFile.get_d (rf : RegisterFile) : rf.get .d = rf.d := rfl
@[simp] theorem RegisterFile.get_e (rf : RegisterFile) : rf.get .e = rf.e := rfl
@[simp] theorem RegisterFile.get_f (rf : RegisterFile) : rf.get .f = rf.f := rfl
@[simp] theorem RegisterFile.get_h (rf : RegisterFile) : rf.get .h = rf.h := rfl
@[simp] theorem RegisterFile.get_l (rf : RegisterFile) : rf.get .l = rf.l := rfl
@[simp] theorem RegisterFile.getPointer_sp (rf : RegisterFile) : rf.getPointer .sp = rf.sp := rfl
@[simp] theorem RegisterFile.getPointer_pc (rf : RegisterFile) : rf.getPointer .pc = rf.pc := rfl

theorem RegisterFile.get_set_same (rf : RegisterFile) (r : Reg8) (v : Byte) : (rf.set r v).get r = v := by
  cases r <;> rfl

theorem RegisterFile.get_set_other (rf : RegisterFile) (r q : Reg8) (v : Byte) (h : q ≠ r) :
    (rf.set r v).get q = rf.get q := by
  cases r <;> cases q <;> first | rfl | exact absurd rfl h

theorem RegisterFile.getPointer_set (rf : RegisterFile) (r : Reg8) (v : Byte) (p : Pointer) :
    (rf.set r v).getPointer p = rf.getPointer p := by
  cases r <;> cases p <;> rfl

theorem RegisterFile.get_setPointer (rf : RegisterFile) (p : Pointer) (v : Word) (r : Reg8) :
    (rf.setPointer p v).get r = rf.get r := by
  cases p <;> cases r <;> rfl

theorem RegisterFile.getPointer_setPointer_same (rf : RegisterFile) (p : Pointer) (v : Word) :
    (rf.setPointer p v).getPointer p = v := by
  cases p <;> rfl

theorem RegisterFile.getPointer_setPointer_other (rf : RegisterFile) (p q : Pointer) (v : Word) (h : q ≠ p) :
    (rf.setPointer p v).getPointer q = rf.getPointer q := by
  cases p <;> cases q <;> first | rfl | exact absurd rfl h

/-- A register file is its ten fields: two that agree on every read are equal. -/
theorem RegisterFile.ext_reads {x y : RegisterFile} (hr : ∀ r, x.get r = y.get r)
    (hp : ∀ p, x.getPointer p = y.getPointer p) : x = y := by
  cases x; cases y
  simp only [RegisterFile.mk.injEq]
  exact ⟨hr .a, hr .b, hr .c, hr .d, hr .e, hr .f, hr .h, hr .l, hp .sp, hp .pc⟩

theorem State.takeRequest_nil {s : State} (h : s.requests = []) : s.takeRequest = none := by
  simp [State.takeRequest, h]

theorem State.takeRequest_cons {s : State} {r : Request} {rest : List Request} (h : s.requests = r :: rest) :
    s.takeRequest = some (r, { s with requests := rest }) := by
  simp [State.takeRequest, h]

theorem State.takeRequest_issue (s : State) (r : Request) : (s.issue r).takeRequest = some (r, s) := rfl

end Sys2Proof.Machine
end

