-- ==== Sys2Proof/Laws/Commands.lean ====
section
/-! SUPPORT. One lemma for each shared operation of the meanings that says everything it does to the block:
every register, every byte of memory, the response and the other ports. -/

namespace Sys2Proof.Machine

/-- A register, pointer, pair or flag read changes the response only. -/
theorem regRead_spec (r : Reg8) (s : State) :
    regRead r s = { s with response := some (zext16 (s.rf.get r)) } := rfl

theorem pointerRead_spec (p : Pointer) (s : State) :
    pointerRead p s = { s with response := some (s.rf.getPointer p) } := rfl

theorem pairRead_spec (p : Pair) (s : State) :
    pairRead p s = { s with response := some (joinBytes (s.rf.get (pairHigh p)) (s.rf.get (pairLow p))) } := rfl

theorem flagRead_spec (x : Flag) (s : State) :
    flagRead x s = { s with response := some (flagData (s.rf.f.getLsbD (flagBit x))) } := rfl

/-- The ports and memory after a register, pointer, pair or flag write. -/
theorem regWrite_rest (r : Reg8) (v : Byte) (s : State) :
    (regWrite r v s).mem = s.mem ∧ (regWrite r v s).requests = s.requests ∧
    (regWrite r v s).response = none ∧ (regWrite r v s).refusals = s.refusals := ⟨rfl, rfl, rfl, rfl⟩

theorem pointerWrite_rest (p : Pointer) (v : Word) (s : State) :
    (pointerWrite p v s).mem = s.mem ∧ (pointerWrite p v s).requests = s.requests ∧
    (pointerWrite p v s).response = none ∧ (pointerWrite p v s).refusals = s.refusals := ⟨rfl, rfl, rfl, rfl⟩

theorem pairWrite_rest (p : Pair) (v : Word) (s : State) :
    (pairWrite p v s).mem = s.mem ∧ (pairWrite p v s).requests = s.requests ∧
    (pairWrite p v s).response = none ∧ (pairWrite p v s).refusals = s.refusals := ⟨rfl, rfl, rfl, rfl⟩

theorem flagWrite_rest (x : Flag) (on : Bool) (s : State) :
    (flagWrite x on s).mem = s.mem ∧ (flagWrite x on s).requests = s.requests ∧
    (flagWrite x on s).response = none ∧ (flagWrite x on s).refusals = s.refusals := ⟨rfl, rfl, rfl, rfl⟩

/-- The registers after REG_WRITE of an 8-bit register. -/
theorem regWrite_get (r q : Reg8) (v : Byte) (s : State) :
    (regWrite r v s).rf.get q = if q = r then regWriteByte r v else s.rf.get q := by
  unfold regWrite
  by_cases h : q = r
  · subst h; simpa using RegisterFile.get_set_same s.rf q _
  · simpa [h] using RegisterFile.get_set_other s.rf r q _ h

theorem regWrite_getPointer (r : Reg8) (v : Byte) (s : State) (p : Pointer) :
    (regWrite r v s).rf.getPointer p = s.rf.getPointer p := s.rf.getPointer_set r _ p

/-- The registers after REG_WRITE of a pointer. -/
theorem pointerWrite_get (p : Pointer) (v : Word) (s : State) (q : Reg8) :
    (pointerWrite p v s).rf.get q = s.rf.get q := s.rf.get_setPointer p v q

theorem pointerWrite_getPointer (p q : Pointer) (v : Word) (s : State) :
    (pointerWrite p v s).rf.getPointer q = if q = p then v else s.rf.getPointer q := by
  unfold pointerWrite
  by_cases h : q = p
  · subst h; simpa using RegisterFile.getPointer_setPointer_same s.rf q v
  · simpa [h] using RegisterFile.getPointer_setPointer_other s.rf p q v h

theorem pairHigh_ne_pairLow (p : Pair) : pairHigh p ≠ pairLow p := by cases p <;> decide

/-- The registers after PAIR_WRITE: exactly the pair's two. -/
theorem pairWrite_get (p : Pair) (v : Word) (s : State) (q : Reg8) :
    (pairWrite p v s).rf.get q =
      if q = pairHigh p then highByte v else if q = pairLow p then pairWriteLow p v else s.rf.get q := by
  show ((s.rf.set (pairHigh p) (highByte v)).set (pairLow p) (pairWriteLow p v)).get q = _
  by_cases hl : q = pairLow p
  · subst hl
    rw [RegisterFile.get_set_same, if_neg (pairHigh_ne_pairLow p).symm, if_pos rfl]
  · rw [RegisterFile.get_set_other _ _ _ _ hl, if_neg hl]
    by_cases hh : q = pairHigh p
    · subst hh; rw [RegisterFile.get_set_same, if_pos rfl]
    · rw [RegisterFile.get_set_other _ _ _ _ hh, if_neg hh]

theorem pairWrite_getPointer (p : Pair) (v : Word) (s : State) (q : Pointer) :
    (pairWrite p v s).rf.getPointer q = s.rf.getPointer q := by
  show ((s.rf.set (pairHigh p) (highByte v)).set (pairLow p) (pairWriteLow p v)).getPointer q = _
  rw [RegisterFile.getPointer_set, RegisterFile.getPointer_set]

/-- The registers after FLAG_WRITE: F only. -/
theorem flagWrite_get (x : Flag) (on : Bool) (s : State) (q : Reg8) :
    (flagWrite x on s).rf.get q = if q = .f then withFlag x on s.rf.f else s.rf.get q := by
  cases q <;> rfl

theorem flagWrite_getPointer (x : Flag) (on : Bool) (s : State) (q : Pointer) :
    (flagWrite x on s).rf.getPointer q = s.rf.getPointer q := by cases q <;> rfl

/-- Every byte after a byte write. -/
theorem readByte_writeByte (s : State) (a : Word) (v : Byte) (b : Word) :
    (s.writeByte a v).readByte b = if a = b then v else s.readByte b := by
  show (s.mem.setByte a.toNat v).byteAt b.toNat = _
  rw [Memory.byteAt_setByte]
  simp only [BitVec.toNat_inj]
  rfl

/-- Every byte after a word write: the low byte at the address, the high byte at the next one. -/
theorem readByte_writeWord (s : State) (a v b : Word) :
    (s.writeWord a v).readByte b =
      if nextAddr a = b then highByte v else if a = b then lowByte v else s.readByte b := by
  unfold State.writeWord
  rw [readByte_writeByte, readByte_writeByte]

/-- A write of a byte or a word keeps the canonical form. -/
theorem wf_writeByte {s : State} (h : s.mem.wf) (a : Word) (v : Byte) : (s.writeByte a v).mem.wf :=
  Memory.wf_setByte h a.isLt v

theorem wf_writeWord {s : State} (h : s.mem.wf) (a v : Word) : (s.writeWord a v).mem.wf :=
  wf_writeByte (wf_writeByte h a _) _ _

/-- The power-on memory has the canonical form. -/
theorem wf_reset : State.reset.mem.wf := Memory.wf_nil

end Sys2Proof.Machine
end

