-- ==== Sys2Proof/Laws/PerInstr.lean ====
section
/-! SUPPORT. Per instruction: the request the encoder writes for it is well-formed (30_encoding.md R85, R88). -/

namespace Sys2Proof.Laws

/-- The five checks of R88 written out. -/
theorem wellFormed_iff (r : Request) :
    r.wellFormed = true ↔
      r.passes .cmdKnown = true ∧ r.passes .addrUnusedZero = true ∧ r.passes .wdataUnusedZero = true ∧
      r.passes .wdataWidth = true ∧ r.passes .imageUnusedEmpty = true := by
  simp [Request.wellFormed, Check.inOrder]

/-- A byte in a `wdata` field has no bit in its high half. -/
theorem zext_high (v : Byte) : (v.setWidth 16 : Word).extractLsb' 8 8 = 0 := by
  apply BitVec.eq_of_getLsbD_eq
  intro i h
  simp

/-- A boolean in a `wdata` field has no bit above bit 0. -/
theorem boolData_high (b : Bool) : (boolData b).extractLsb' 1 15 = 0 := by cases b <;> decide

/-- A byte write request is well-formed. -/
theorem byteRequest_wellFormed {cmd : Byte} (h : cmd ∈ byteWriteCodes) (v : Byte) :
    (dataRequest cmd (v.setWidth 16)).wellFormed = true := by
  have hf : cmd ∉ flagWriteCodes := by revert h; revert cmd; decide
  have hk : cmd ∈ knownCodes := by revert h; revert cmd; decide
  have hw : cmd ∈ wdataCodes := by revert h; revert cmd; decide
  rw [wellFormed_iff]
  simp only [Request.passes, dataRequest, hk, hw, hf, zext_high]
  simp

/-- A flag write request is well-formed. -/
theorem boolRequest_wellFormed {cmd : Byte} (h : cmd ∈ flagWriteCodes) (b : Bool) :
    (dataRequest cmd (boolData b)).wellFormed = true := by
  have hf : cmd ∉ byteWriteCodes ++ [0x71] := by revert h; revert cmd; decide
  have hk : cmd ∈ knownCodes := by revert h; revert cmd; decide
  have hw : cmd ∈ wdataCodes := by revert h; revert cmd; decide
  rw [wellFormed_iff]
  simp only [Request.passes, dataRequest, hk, hw, hf, boolData_high]
  simp

/-- A word write request is well-formed. -/
theorem wordRequest_wellFormed {cmd : Byte} (h : cmd ∈ [0x28, 0x29] ++ pairWriteCodes) (v : Word) :
    (dataRequest cmd v).wellFormed = true := by
  have hf : cmd ∉ byteWriteCodes ++ [0x71] := by revert h; revert cmd; decide
  have hg : cmd ∉ flagWriteCodes := by revert h; revert cmd; decide
  have hk : cmd ∈ knownCodes := by revert h; revert cmd; decide
  have hw : cmd ∈ wdataCodes := by revert h; revert cmd; decide
  rw [wellFormed_iff]
  simp only [Request.passes, dataRequest, hk, hw, hf, hg]
  simp

/-- The request of the instruction passes every check. -/
def EncodesWellFormed.Statement (i : Instr) : Prop := (encode i).wellFormed = true

theorem EncodesWellFormed.rfReset : EncodesWellFormed.Statement .rfReset := by unfold EncodesWellFormed.Statement; decide

theorem EncodesWellFormed.memReset : EncodesWellFormed.Statement .memReset := by unfold EncodesWellFormed.Statement; decide

theorem EncodesWellFormed.regReadA : EncodesWellFormed.Statement .regReadA := by unfold EncodesWellFormed.Statement; decide

theorem EncodesWellFormed.regReadB : EncodesWellFormed.Statement .regReadB := by unfold EncodesWellFormed.Statement; decide

theorem EncodesWellFormed.regReadC : EncodesWellFormed.Statement .regReadC := by unfold EncodesWellFormed.Statement; decide

theorem EncodesWellFormed.regReadD : EncodesWellFormed.Statement .regReadD := by unfold EncodesWellFormed.Statement; decide

theorem EncodesWellFormed.regReadE : EncodesWellFormed.Statement .regReadE := by unfold EncodesWellFormed.Statement; decide

theorem EncodesWellFormed.regReadF : EncodesWellFormed.Statement .regReadF := by unfold EncodesWellFormed.Statement; decide

theorem EncodesWellFormed.regReadH : EncodesWellFormed.Statement .regReadH := by unfold EncodesWellFormed.Statement; decide

theorem EncodesWellFormed.regReadL : EncodesWellFormed.Statement .regReadL := by unfold EncodesWellFormed.Statement; decide

theorem EncodesWellFormed.regReadSP : EncodesWellFormed.Statement .regReadSP := by unfold EncodesWellFormed.Statement; decide

theorem EncodesWellFormed.regReadPC : EncodesWellFormed.Statement .regReadPC := by unfold EncodesWellFormed.Statement; decide

theorem EncodesWellFormed.regWriteA (v : Byte) : EncodesWellFormed.Statement (.regWriteA v) :=
  byteRequest_wellFormed (by decide) v

theorem EncodesWellFormed.regWriteB (v : Byte) : EncodesWellFormed.Statement (.regWriteB v) :=
  byteRequest_wellFormed (by decide) v

theorem EncodesWellFormed.regWriteC (v : Byte) : EncodesWellFormed.Statement (.regWriteC v) :=
  byteRequest_wellFormed (by decide) v

theorem EncodesWellFormed.regWriteD (v : Byte) : EncodesWellFormed.Statement (.regWriteD v) :=
  byteRequest_wellFormed (by decide) v

theorem EncodesWellFormed.regWriteE (v : Byte) : EncodesWellFormed.Statement (.regWriteE v) :=
  byteRequest_wellFormed (by decide) v

theorem EncodesWellFormed.regWriteF (v : Byte) : EncodesWellFormed.Statement (.regWriteF v) :=
  byteRequest_wellFormed (by decide) v

theorem EncodesWellFormed.regWriteH (v : Byte) : EncodesWellFormed.Statement (.regWriteH v) :=
  byteRequest_wellFormed (by decide) v

theorem EncodesWellFormed.regWriteL (v : Byte) : EncodesWellFormed.Statement (.regWriteL v) :=
  byteRequest_wellFormed (by decide) v

theorem EncodesWellFormed.regWriteSP (v : Word) : EncodesWellFormed.Statement (.regWriteSP v) :=
  wordRequest_wellFormed (by decide) v

theorem EncodesWellFormed.regWritePC (v : Word) : EncodesWellFormed.Statement (.regWritePC v) :=
  wordRequest_wellFormed (by decide) v

theorem EncodesWellFormed.pairReadAF : EncodesWellFormed.Statement .pairReadAF := by unfold EncodesWellFormed.Statement; decide

theorem EncodesWellFormed.pairReadBC : EncodesWellFormed.Statement .pairReadBC := by unfold EncodesWellFormed.Statement; decide

theorem EncodesWellFormed.pairReadDE : EncodesWellFormed.Statement .pairReadDE := by unfold EncodesWellFormed.Statement; decide

theorem EncodesWellFormed.pairReadHL : EncodesWellFormed.Statement .pairReadHL := by unfold EncodesWellFormed.Statement; decide

theorem EncodesWellFormed.pairWriteAF (v : Word) : EncodesWellFormed.Statement (.pairWriteAF v) :=
  wordRequest_wellFormed (by decide) v

theorem EncodesWellFormed.pairWriteBC (v : Word) : EncodesWellFormed.Statement (.pairWriteBC v) :=
  wordRequest_wellFormed (by decide) v

theorem EncodesWellFormed.pairWriteDE (v : Word) : EncodesWellFormed.Statement (.pairWriteDE v) :=
  wordRequest_wellFormed (by decide) v

theorem EncodesWellFormed.pairWriteHL (v : Word) : EncodesWellFormed.Statement (.pairWriteHL v) :=
  wordRequest_wellFormed (by decide) v

theorem EncodesWellFormed.flagReadZ : EncodesWellFormed.Statement .flagReadZ := by unfold EncodesWellFormed.Statement; decide

theorem EncodesWellFormed.flagReadN : EncodesWellFormed.Statement .flagReadN := by unfold EncodesWellFormed.Statement; decide

theorem EncodesWellFormed.flagReadH : EncodesWellFormed.Statement .flagReadH := by unfold EncodesWellFormed.Statement; decide

theorem EncodesWellFormed.flagReadC : EncodesWellFormed.Statement .flagReadC := by unfold EncodesWellFormed.Statement; decide

theorem EncodesWellFormed.flagWriteZ (b : Bool) : EncodesWellFormed.Statement (.flagWriteZ b) :=
  boolRequest_wellFormed (by decide) b

theorem EncodesWellFormed.flagWriteN (b : Bool) : EncodesWellFormed.Statement (.flagWriteN b) :=
  boolRequest_wellFormed (by decide) b

theorem EncodesWellFormed.flagWriteH (b : Bool) : EncodesWellFormed.Statement (.flagWriteH b) :=
  boolRequest_wellFormed (by decide) b

theorem EncodesWellFormed.flagWriteC (b : Bool) : EncodesWellFormed.Statement (.flagWriteC b) :=
  boolRequest_wellFormed (by decide) b

theorem EncodesWellFormed.memReadByte (a : Word) : EncodesWellFormed.Statement (.memReadByte a) := by
  unfold EncodesWellFormed.Statement
  rw [wellFormed_iff]
  exact ⟨by rfl, by simp [encode, Request.passes, addrCodes], by simp [encode, Request.passes],
    by simp [encode, Request.passes], by simp [encode, Request.passes]⟩

theorem EncodesWellFormed.memWriteByte (a : Word) (v : Byte) : EncodesWellFormed.Statement (.memWriteByte a v) := by
  unfold EncodesWellFormed.Statement
  rw [wellFormed_iff]
  exact ⟨by rfl, by simp [encode, Request.passes, addrCodes], by simp [encode, Request.passes, wdataCodes],
    by simp [encode, Request.passes, zext_high, flagWriteCodes], by simp [encode, Request.passes]⟩

theorem EncodesWellFormed.memReadWord (a : Word) : EncodesWellFormed.Statement (.memReadWord a) := by
  unfold EncodesWellFormed.Statement
  rw [wellFormed_iff]
  exact ⟨by rfl, by simp [encode, Request.passes, addrCodes], by simp [encode, Request.passes],
    by simp [encode, Request.passes], by simp [encode, Request.passes]⟩

theorem EncodesWellFormed.memWriteWord (a v : Word) : EncodesWellFormed.Statement (.memWriteWord a v) := by
  unfold EncodesWellFormed.Statement
  rw [wellFormed_iff]
  exact ⟨by rfl, by simp [encode, Request.passes, addrCodes], by simp [encode, Request.passes, wdataCodes],
    by simp [encode, Request.passes, byteWriteCodes, flagWriteCodes], by simp [encode, Request.passes]⟩

theorem EncodesWellFormed.loadImage (data : List Byte) : EncodesWellFormed.Statement (.loadImage data) := by
  unfold EncodesWellFormed.Statement
  rw [wellFormed_iff]
  exact ⟨by rfl, by simp [encode, Request.passes], by simp [encode, Request.passes],
    by simp [encode, Request.passes], by simp [encode, Request.passes]⟩

end Sys2Proof.Laws
end

