-- ==== Sys2Proof/Laws/Step.lean ====
section
/-! SUPPORT. What one step can be: idle, the command of the oldest request, or its refusal. -/

namespace Sys2Proof.Machine

/-- The three cases of a step, with everything that selects them. -/
theorem step_cases (s : State) :
    (s.requests = [] ∧ step s = .next s) ∨
    (∃ r rest i, s.requests = r :: rest ∧ decode r = .ok i ∧ step s = exec i { s with requests := rest }) ∨
    (∃ r rest c, s.requests = r :: rest ∧ decode r = .error c ∧
      step s = .next { s with requests := rest, response := none, refusals := s.refusals ++ [c] }) := by
  cases hq : s.requests with
  | nil => exact .inl ⟨rfl, by unfold step; rw [State.takeRequest_nil hq]; rfl⟩
  | cons r rest =>
    have ht := State.takeRequest_cons hq
    cases hd : decode r with
    | ok i => exact .inr (.inl ⟨r, rest, i, rfl, hd, by unfold step; rw [ht]; simp only [hd]⟩)
    | error c => exact .inr (.inr ⟨r, rest, c, rfl, hd, by unfold step; rw [ht]; simp only [hd]; rfl⟩)

end Sys2Proof.Machine
end

