-- ==== Sys2Proof/Tests/Slice0.lean ====
section
/-! SUPPORT. The model's own tests, expected values from 95_test_vectors.md (V-…, W…) or worked out by hand from the
rules, and a named witness for every obligation that has hypotheses. -/

namespace Sys2Proof.Tests

open Sys2Proof Sys2Proof.Machine Sys2Proof.Statements

/-! ## Decoding: every command from its request, the code in binary from R82, R85 and R86 -/

theorem test_decode_resets :
    decode ⟨0b00000001#8, 0, 0, []⟩ = .ok .rfReset ∧ decode ⟨0b00000010#8, 0, 0, []⟩ = .ok .memReset :=
  ⟨rfl, rfl⟩

theorem test_decode_register_reads :
    decode ⟨0b00010000#8, 0, 0, []⟩ = .ok .regReadA ∧ decode ⟨0b00010001#8, 0, 0, []⟩ = .ok .regReadB ∧
    decode ⟨0b00010010#8, 0, 0, []⟩ = .ok .regReadC ∧ decode ⟨0b00010011#8, 0, 0, []⟩ = .ok .regReadD ∧
    decode ⟨0b00010100#8, 0, 0, []⟩ = .ok .regReadE ∧ decode ⟨0b00010101#8, 0, 0, []⟩ = .ok .regReadF ∧
    decode ⟨0b00010110#8, 0, 0, []⟩ = .ok .regReadH ∧ decode ⟨0b00010111#8, 0, 0, []⟩ = .ok .regReadL ∧
    decode ⟨0b00011000#8, 0, 0, []⟩ = .ok .regReadSP ∧ decode ⟨0b00011001#8, 0, 0, []⟩ = .ok .regReadPC :=
  ⟨rfl, rfl, rfl, rfl, rfl, rfl, rfl, rfl, rfl, rfl⟩

theorem test_decode_register_writes :
    decode ⟨0b00100000#8, 0, 0x00FF#16, []⟩ = .ok (.regWriteA 0xFF#8) ∧
    decode ⟨0b00100001#8, 0, 0x007F#16, []⟩ = .ok (.regWriteB 0x7F#8) ∧
    decode ⟨0b00100010#8, 0, 0x0001#16, []⟩ = .ok (.regWriteC 0x01#8) ∧
    decode ⟨0b00100011#8, 0, 0x0080#16, []⟩ = .ok (.regWriteD 0x80#8) ∧
    decode ⟨0b00100100#8, 0, 0x005A#16, []⟩ = .ok (.regWriteE 0x5A#8) ∧
    decode ⟨0b00100101#8, 0, 0x000F#16, []⟩ = .ok (.regWriteF 0x0F#8) ∧
    decode ⟨0b00100110#8, 0, 0x00AB#16, []⟩ = .ok (.regWriteH 0xAB#8) ∧
    decode ⟨0b00100111#8, 0, 0x0000#16, []⟩ = .ok (.regWriteL 0x00#8) ∧
    decode ⟨0b00101000#8, 0, 0xFFFE#16, []⟩ = .ok (.regWriteSP 0xFFFE#16) ∧
    decode ⟨0b00101001#8, 0, 0x1234#16, []⟩ = .ok (.regWritePC 0x1234#16) :=
  ⟨rfl, rfl, rfl, rfl, rfl, rfl, rfl, rfl, rfl, rfl⟩

theorem test_decode_pairs :
    decode ⟨0b00110000#8, 0, 0, []⟩ = .ok .pairReadAF ∧ decode ⟨0b00110001#8, 0, 0, []⟩ = .ok .pairReadBC ∧
    decode ⟨0b00110010#8, 0, 0, []⟩ = .ok .pairReadDE ∧ decode ⟨0b00110011#8, 0, 0, []⟩ = .ok .pairReadHL ∧
    decode ⟨0b01000000#8, 0, 0x12FF#16, []⟩ = .ok (.pairWriteAF 0x12FF#16) ∧
    decode ⟨0b01000001#8, 0, 0x1234#16, []⟩ = .ok (.pairWriteBC 0x1234#16) ∧
    decode ⟨0b01000010#8, 0, 0x0304#16, []⟩ = .ok (.pairWriteDE 0x0304#16) ∧
    decode ⟨0b01000011#8, 0, 0xC000#16, []⟩ = .ok (.pairWriteHL 0xC000#16) :=
  ⟨rfl, rfl, rfl, rfl, rfl, rfl, rfl, rfl⟩

theorem test_decode_flags :
    decode ⟨0b01010000#8, 0, 0, []⟩ = .ok .flagReadZ ∧ decode ⟨0b01010001#8, 0, 0, []⟩ = .ok .flagReadN ∧
    decode ⟨0b01010010#8, 0, 0, []⟩ = .ok .flagReadH ∧ decode ⟨0b01010011#8, 0, 0, []⟩ = .ok .flagReadC ∧
    decode ⟨0b01100000#8, 0, 1, []⟩ = .ok (.flagWriteZ true) ∧
    decode ⟨0b01100001#8, 0, 0, []⟩ = .ok (.flagWriteN false) ∧
    decode ⟨0b01100010#8, 0, 1, []⟩ = .ok (.flagWriteH true) ∧
    decode ⟨0b01100011#8, 0, 0, []⟩ = .ok (.flagWriteC false) :=
  ⟨rfl, rfl, rfl, rfl, rfl, rfl, rfl, rfl⟩

theorem test_decode_memory :
    decode ⟨0b01110000#8, 0x1234#16, 0, []⟩ = .ok (.memReadByte 0x1234#16) ∧
    decode ⟨0b01110001#8, 0x1234#16, 0x00AB#16, []⟩ = .ok (.memWriteByte 0x1234#16 0xAB#8) ∧
    decode ⟨0b01110010#8, 0xFFFF#16, 0, []⟩ = .ok (.memReadWord 0xFFFF#16) ∧
    decode ⟨0b01110011#8, 0x1000#16, 0xBEEF#16, []⟩ = .ok (.memWriteWord 0x1000#16 0xBEEF#16) ∧
    decode ⟨0b01110100#8, 0, 0, [0xAA#8, 0xBB#8]⟩ = .ok (.loadImage [0xAA#8, 0xBB#8]) :=
  ⟨rfl, rfl, rfl, rfl, rfl⟩

/-- The numbering of a table word (log 8): the code is bits 7..0, addr, wdata and image follow. -/
theorem test_decode_table_words :
    decodeTableWord 8 0x19 = some .regReadPC ∧ decodeTableWord 8 0x25 = some (.regWriteF 0x00#8) ∧
    decodeTableWord 8 0x74 = some (.loadImage []) ∧ decodeTableWord 8 0x75 = none ∧
    decodeTableWord 40 0xBEEF100073 = some (.memWriteWord 0x1000#16 0xBEEF#16) ∧
    decodeTableWord 56 0xBBAA0000000074 = some (.loadImage [0xAA#8, 0xBB#8]) :=
  ⟨rfl, rfl, rfl, rfl, rfl, rfl⟩

/-! ## WellFormed: an ill-formed request for each check, which the check and the decoder refuse -/

/-- V-E1 to V-E7: the edges of every reserved range of R87. -/
theorem test_cmd_known_refuses :
    ∀ cmd ∈ ([0x00, 0x03, 0x0F, 0x1A, 0x1F, 0x2A, 0x34, 0x44, 0x54, 0x64, 0x75, 0x7F, 0x80, 0xFF] : List Byte),
      (Request.mk cmd 0 0 []).passes .cmdKnown = false ∧ firstFailed ⟨cmd, 0, 0, []⟩ = some .cmdKnown := by
  decide

/-- V-E8. -/
theorem test_addr_unused_zero_refuses :
    (Request.mk 0x10 0x0001 0 []).passes .addrUnusedZero = false ∧
    decode ⟨0x10, 0x0001, 0, []⟩ = .error .addrUnusedZero := ⟨by decide, rfl⟩

/-- V-L8. -/
theorem test_wdata_unused_zero_refuses :
    (Request.mk 0x74 0 0x0001 [0x00]).passes .wdataUnusedZero = false ∧
    decode ⟨0x74, 0, 0x0001, [0x00]⟩ = .error .wdataUnusedZero := ⟨by decide, rfl⟩

/-- V-R8, V-F5, V-M7. -/
theorem test_wdata_width_refuses :
    (Request.mk 0x20 0 0x0100 []).passes .wdataWidth = false ∧ decode ⟨0x20, 0, 0x0100, []⟩ = .error .wdataWidth ∧
    (Request.mk 0x62 0 0x0002 []).passes .wdataWidth = false ∧ decode ⟨0x62, 0, 0x0002, []⟩ = .error .wdataWidth ∧
    (Request.mk 0x71 0x4000 0x0100 []).passes .wdataWidth = false ∧
    decode ⟨0x71, 0x4000, 0x0100, []⟩ = .error .wdataWidth :=
  ⟨by decide, rfl, by decide, rfl, by decide, rfl⟩

/-- V-E9. -/
theorem test_image_unused_empty_refuses :
    (Request.mk 0x70 0x1234 0 [0x01]).passes .imageUnusedEmpty = false ∧
    decode ⟨0x70, 0x1234, 0, [0x01]⟩ = .error .imageUnusedEmpty := ⟨by decide, rfl⟩

/-- V-E10: the first check in order is the reason. -/
theorem test_first_failing_check : decode ⟨0xFF, 0x0001, 0x0001, [0x01]⟩ = .error .cmdKnown := rfl

/-! ## One step of each command -/

/-- The state after one step that performs the request. -/
def after (s : State) (r : Request) : Option State :=
  match step (s.issue r) with
  | .next t => some t
  | .fault _ | .refused _ => none

/-- The response of one step that performs the request. -/
def answer (s : State) (r : Request) : Option Word := (after s r).bind (·.response)

/-- The registers after one step that performs the request. -/
def registersAfter (s : State) (r : Request) : Option RegisterFile := (after s r).map (·.rf)

/-- A byte of memory after one step that performs the request. -/
def byteAfter (s : State) (r : Request) (a : Word) : Option Byte := (after s r).map (·.readByte a)

/-- Registers that all differ. -/
def someRegisters : RegisterFile :=
  { a := 0x12, b := 0x34, c := 0x56, d := 0x78, e := 0x9A, f := 0x50, h := 0xBC, l := 0xDE, sp := 0xFFFE, pc := 0x8001 }

/-- A state with those registers and four bytes of memory. -/
def sample : State :=
  { State.reset with
    rf := someRegisters
    mem := [(0x0000, 0x12), (0x7FFF, 0x77), (0x8000, 0x5A), (0xFFFF, 0x34)] }

/-- V-X1: RF_RESET. -/
theorem test_rf_reset :
    registersAfter sample ⟨0x01, 0, 0, []⟩ = some ⟨0, 0, 0, 0, 0, 0, 0, 0, 0, 0⟩ ∧
    byteAfter sample ⟨0x01, 0, 0, []⟩ 0x0000 = some 0x12#8 := by decide

/-- V-X2: MEM_RESET. -/
theorem test_mem_reset :
    registersAfter sample ⟨0x02, 0, 0, []⟩ = some someRegisters ∧
    byteAfter sample ⟨0x02, 0, 0, []⟩ 0xFFFF = some 0x00#8 := by decide

/-- R100 to R109: each register read, zero-extended. -/
theorem test_register_reads :
    answer sample ⟨0x10, 0, 0, []⟩ = some 0x0012#16 ∧ answer sample ⟨0x11, 0, 0, []⟩ = some 0x0034#16 ∧
    answer sample ⟨0x12, 0, 0, []⟩ = some 0x0056#16 ∧ answer sample ⟨0x13, 0, 0, []⟩ = some 0x0078#16 ∧
    answer sample ⟨0x14, 0, 0, []⟩ = some 0x009A#16 ∧ answer sample ⟨0x15, 0, 0, []⟩ = some 0x0050#16 ∧
    answer sample ⟨0x16, 0, 0, []⟩ = some 0x00BC#16 ∧ answer sample ⟨0x17, 0, 0, []⟩ = some 0x00DE#16 ∧
    answer sample ⟨0x18, 0, 0, []⟩ = some 0xFFFE#16 ∧ answer sample ⟨0x19, 0, 0, []⟩ = some 0x8001#16 := by decide

/-- R110 to R114, R116 to R119: each register write and nothing else. -/
theorem test_register_writes :
    registersAfter sample ⟨0x20, 0, 0xFF, []⟩ = some { someRegisters with a := 0xFF } ∧
    registersAfter sample ⟨0x21, 0, 0x7F, []⟩ = some { someRegisters with b := 0x7F } ∧
    registersAfter sample ⟨0x22, 0, 0x01, []⟩ = some { someRegisters with c := 0x01 } ∧
    registersAfter sample ⟨0x23, 0, 0x02, []⟩ = some { someRegisters with d := 0x02 } ∧
    registersAfter sample ⟨0x24, 0, 0x03, []⟩ = some { someRegisters with e := 0x03 } ∧
    registersAfter sample ⟨0x26, 0, 0x04, []⟩ = some { someRegisters with h := 0x04 } ∧
    registersAfter sample ⟨0x27, 0, 0x00, []⟩ = some { someRegisters with l := 0x00 } ∧
    registersAfter sample ⟨0x28, 0, 0xFFFC, []⟩ = some { someRegisters with sp := 0xFFFC } ∧
    registersAfter sample ⟨0x29, 0, 0xFFFF, []⟩ = some { someRegisters with pc := 0xFFFF } := by decide

/-- V-R3, V-R4, V-R5: REG_WRITE.F discards the low nibble. -/
theorem test_write_f_masks :
    registersAfter sample ⟨0x25, 0, 0xFF, []⟩ = some { someRegisters with f := 0xF0 } ∧
    registersAfter sample ⟨0x25, 0, 0x0F, []⟩ = some { someRegisters with f := 0x00 } ∧
    registersAfter sample ⟨0x25, 0, 0x5A, []⟩ = some { someRegisters with f := 0x50 } := by decide

/-- R130 to R133: the first register in bits 15:8. -/
theorem test_pair_reads :
    answer sample ⟨0x30, 0, 0, []⟩ = some 0x1250#16 ∧ answer sample ⟨0x31, 0, 0, []⟩ = some 0x3456#16 ∧
    answer sample ⟨0x32, 0, 0, []⟩ = some 0x789A#16 ∧ answer sample ⟨0x33, 0, 0, []⟩ = some 0xBCDE#16 := by decide

/-- V-P1, V-P2, V-P3, V-P5: both halves, masked for AF only. -/
theorem test_pair_writes :
    registersAfter sample ⟨0x40, 0, 0x5A3C, []⟩ = some { someRegisters with a := 0x5A, f := 0x30 } ∧
    registersAfter sample ⟨0x41, 0, 0x1234, []⟩ = some { someRegisters with b := 0x12, c := 0x34 } ∧
    registersAfter sample ⟨0x42, 0, 0x000F, []⟩ = some { someRegisters with d := 0x00, e := 0x0F } ∧
    registersAfter sample ⟨0x43, 0, 0xFFFF, []⟩ = some { someRegisters with h := 0xFF, l := 0xFF } := by decide

/-- V-P4: PAIR_WRITE.AF 0xFF0F. -/
theorem test_pair_write_af_discards :
    registersAfter sample ⟨0x40, 0, 0xFF0F, []⟩ = some { someRegisters with a := 0xFF, f := 0x00 } := by decide

/-- V-R5 (F = 0x50): Z, N, H, C read 0, 1, 0, 1. -/
theorem test_flag_reads :
    answer sample ⟨0x50, 0, 0, []⟩ = some 0x0000#16 ∧ answer sample ⟨0x51, 0, 0, []⟩ = some 0x0001#16 ∧
    answer sample ⟨0x52, 0, 0, []⟩ = some 0x0000#16 ∧ answer sample ⟨0x53, 0, 0, []⟩ = some 0x0001#16 := by decide

/-- R154 to R157 from F = 0x50: setting each flag. -/
theorem test_flag_sets :
    registersAfter sample ⟨0x60, 0, 1, []⟩ = some { someRegisters with f := 0xD0 } ∧
    registersAfter sample ⟨0x61, 0, 1, []⟩ = some { someRegisters with f := 0x50 } ∧
    registersAfter sample ⟨0x62, 0, 1, []⟩ = some { someRegisters with f := 0x70 } ∧
    registersAfter sample ⟨0x63, 0, 1, []⟩ = some { someRegisters with f := 0x50 } := by decide

/-- R154 to R157 from F = 0x50: clearing each flag. -/
theorem test_flag_clears :
    registersAfter sample ⟨0x60, 0, 0, []⟩ = some { someRegisters with f := 0x50 } ∧
    registersAfter sample ⟨0x61, 0, 0, []⟩ = some { someRegisters with f := 0x10 } ∧
    registersAfter sample ⟨0x62, 0, 0, []⟩ = some { someRegisters with f := 0x50 } ∧
    registersAfter sample ⟨0x63, 0, 0, []⟩ = some { someRegisters with f := 0x40 } := by decide

/-- V-M1, V-M8: byte reads at the edges. -/
theorem test_mem_read_byte :
    answer sample ⟨0x70, 0x7FFF, 0, []⟩ = some 0x0077#16 ∧ answer sample ⟨0x70, 0xFFFF, 0, []⟩ = some 0x0034#16 ∧
    answer sample ⟨0x70, 0x1234, 0, []⟩ = some 0x0000#16 := by decide

/-- V-M4: the word at 0xFFFF has its high byte at 0x0000. -/
theorem test_mem_read_word_wraps :
    answer sample ⟨0x72, 0xFFFF, 0, []⟩ = some 0x1234#16 ∧ answer sample ⟨0x72, 0x7FFF, 0, []⟩ = some 0x5A77#16 := by
  decide

/-- V-M2, V-M9: a byte write, and the write of 0x00. -/
theorem test_mem_write_byte :
    byteAfter sample ⟨0x71, 0x1234, 0xAB, []⟩ 0x1234 = some 0xAB#8 ∧
    byteAfter sample ⟨0x71, 0x1234, 0xAB, []⟩ 0x1235 = some 0x00#8 ∧
    (after sample ⟨0x71, 0x7FFF, 0x00, []⟩).map (·.mem) =
      some [(0x0000, 0x12), (0x8000, 0x5A), (0xFFFF, 0x34)] := by decide

/-- V-M3, V-M4: a word write, low byte first, and its wrap. -/
theorem test_mem_write_word :
    byteAfter sample ⟨0x73, 0x1000, 0xBEEF, []⟩ 0x1000 = some 0xEF#8 ∧
    byteAfter sample ⟨0x73, 0x1000, 0xBEEF, []⟩ 0x1001 = some 0xBE#8 ∧
    byteAfter sample ⟨0x73, 0xFFFF, 0xBEEF, []⟩ 0xFFFF = some 0xEF#8 ∧
    byteAfter sample ⟨0x73, 0xFFFF, 0xBEEF, []⟩ 0x0000 = some 0xBE#8 := by decide

/-- V-L1, V-L2: an empty image changes nothing; a short one is copied to 0x0000 and up. -/
theorem test_load_image :
    (after sample ⟨0x74, 0, 0, []⟩).map (·.mem) = some sample.mem ∧
    (after sample ⟨0x74, 0, 0, [0xAA, 0x00, 0xCC]⟩).map (·.mem) =
      some [(0x0000, 0xAA), (0x0002, 0xCC), (0x7FFF, 0x77), (0x8000, 0x5A), (0xFFFF, 0x34)] := by decide

/-- V-L3, V-L7: an image of 32769 bytes leaves 0x8000 as it was. -/
theorem test_load_image_clamps :
    ∃ t, after sample ⟨0x74, 0, 0, List.replicate 32769 0x11#8⟩ = some t ∧ t.readByte 0x8000 = 0x5A#8 := by
  refine ⟨_, rfl, ?_⟩
  exact Memory.byteAt_load_outside sample.mem (.inr (by decide))

/-- V-R8, V-E11: a refused request changes no register, answers none and sets the mark; the next command is
performed with the mark set. -/
theorem test_refusal_then_command :
    after sample ⟨0x20, 0, 0x0100, []⟩ = some { sample with refusals := [.wdataWidth] } ∧
    after { sample with refusals := [.wdataWidth] } ⟨0x10, 0, 0, []⟩ =
      some { sample with response := some 0x0012, refusals := [.wdataWidth] } := by decide

/-- The host's way to place an instruction: the first step after reset runs it. -/
theorem test_fetch_word :
    step (State.reset.withFetchWord 8 0x15) = .next { State.reset with response := some 0x0000 } := rfl

/-! ## Witnesses: states and operands that meet the hypotheses of each obligation -/

/-- A request for the witnesses: REG_WRITE.PC 0x0001. -/
def jump : Request := ⟨0x29, 0, 0x0001, []⟩

/-- A request that is refused. -/
def illFormed : Request := ⟨0xFF, 0x0001, 0x0001, [0x01]⟩

/-- A state with F = 0xF0 at the edge of the invariant, with one request pending. -/
def pending (r : Request) : State := { sample with rf := { someRegisters with f := 0xF0 }, requests := [r] }

theorem witness_O3 : decode ⟨0x71, 0xFFFF, 0x00FF, []⟩ = .ok (.memWriteByte 0xFFFF 0xFF) := rfl

theorem witness_O4 : illFormed.wellFormed = false ∧ jump.wellFormed = true := by decide

theorem witness_O6_reserved :
    ReservedByte 0x00 ∧ ReservedByte 0x0F ∧ ReservedByte 0x1A ∧ ReservedByte 0x2F ∧ ReservedByte 0x34 ∧
    ReservedByte 0x6F ∧ ReservedByte 0x75 ∧ ReservedByte 0x80 ∧ ReservedByte 0xFF ∧
    ¬ReservedByte 0x01 ∧ ¬ReservedByte 0x02 ∧ ¬ReservedByte 0x29 ∧ ¬ReservedByte 0x63 ∧ ¬ReservedByte 0x74 := by
  unfold ReservedByte; refine ⟨?_, ?_, ?_, ?_, ?_, ?_, ?_, ?_, ?_, ?_, ?_, ?_, ?_, ?_⟩ <;> decide

theorem witness_O6_sticky :
    ∃ t, step { pending jump with refusals := [.cmdKnown] } = .next t ∧
      Check.cmdKnown ∈ ({ pending jump with refusals := [.cmdKnown] } : State).refusals := ⟨_, rfl, by decide⟩

theorem witness_O7 : decode illFormed = .error .cmdKnown ∧ decode jump = .ok (.regWritePC 0x0001) := ⟨rfl, rfl⟩

theorem witness_O8 : (pending jump).requests = jump :: [] ∧ decode jump = .ok (.regWritePC 0x0001) := ⟨rfl, rfl⟩

theorem witness_O9 : decodeTableWord 8 0x01 = some .rfReset ∧ decodeTableWord 40 0x00FFFFFF71 =
    some (.memWriteByte 0xFFFF 0xFF) := ⟨rfl, rfl⟩

theorem witness_O10 : sample.requests = [] := rfl

theorem witness_O12_O18 : (pending jump).flagNibbleZero ∧ State.reset.flagNibbleZero := by decide

/-- O14, O15, O31: the least and the greatest wdata with a bit above bit 7. -/
theorem witness_O14_O15_O31 :
    (0x0100#16).extractLsb' 8 8 ≠ 0#8 ∧ (0xFFFF#16).extractLsb' 8 8 ≠ 0#8 := by decide

/-- O26: the least and the greatest wdata with a bit above bit 0, and a flag that holds the value written. -/
theorem witness_O26 :
    (0x0002#16).extractLsb' 1 15 ≠ 0#15 ∧ (0xFFFF#16).extractLsb' 1 15 ≠ 0#15 ∧
    someRegisters.f.getLsbD 7 = false ∧ someRegisters.f.getLsbD 6 = true ∧
    someRegisters.f.getLsbD 5 = false ∧ someRegisters.f.getLsbD 4 = true := by decide

theorem witness_O17 : Reg8.a ≠ .f ∧ Pointer.sp ≠ .pc := by decide

theorem witness_O24 : (∃ t, exec (pairWriteOf .bc 0xFFFF) sample = .next t) ∧ Pair.bc ≠ .af ∧
    Reg8.d ≠ pairHigh .bc ∧ Reg8.d ≠ pairLow .bc := ⟨⟨_, rfl⟩, by decide⟩

theorem witness_O27 : State.reset.rf.f = 0x00#8 ∧ Flag.z ≠ .c := by decide

theorem witness_O28 : Flag.z ≠ .n ∧ Flag.c = .c := by decide

theorem witness_O29_flag_write :
    (∃ t, exec (.flagWriteZ true) sample = .next t) ∧ (∀ v, Instr.flagWriteZ true ≠ .regWriteF v) ∧
    (∀ v, Instr.flagWriteZ true ≠ .pairWriteAF v) ∧ Instr.flagWriteZ true ≠ .rfReset :=
  ⟨⟨_, rfl⟩, nofun, nofun, nofun⟩

theorem witness_O29_other :
    (∃ t, exec .memReset sample = .next t) ∧ (∀ v, Instr.memReset ≠ .regWriteF v) ∧
    (∀ v, Instr.memReset ≠ .pairWriteAF v) ∧ Instr.memReset ≠ .rfReset ∧
    ∀ (x : Flag) (b : Bool), Instr.memReset ≠ flagWriteOf x b :=
  ⟨⟨_, rfl⟩, nofun, nofun, nofun, fun x _ => by cases x <;> nofun⟩

theorem witness_O31_O33_O35 : (0x0001#16) ≠ 0xFFFF#16 ∧ (0x0001#16) ≠ nextAddr 0xFFFF := by decide

/-- O34: the last address copied and the first one left alone, for an image that fills the window, one that is
longer, and the empty one. -/
theorem witness_O34 :
    (0x7FFF#16).toNat < min (List.replicate 32768 0x11#8).length 32768 ∧
    (0x7FFF#16).toNat < min (List.replicate 65537 0x11#8).length 32768 ∧
    min (List.replicate 65537 0x11#8).length 32768 ≤ (0x8000#16).toNat ∧
    min ([] : List Byte).length 32768 ≤ (0x0000#16).toNat := by
  simp only [List.length_replicate]; decide

/-- O36: d1 of four bytes, d2 of one. -/
theorem witness_O36 :
    (0x0000#16).toNat < min [0x09#8].length 32768 ∧
    (min [0x09#8].length 32768 ≤ (0x0001#16).toNat ∧ (0x0001#16).toNat < min [1#8, 2#8, 3#8, 4#8].length 32768) ∧
    (min [0x09#8].length 32768 ≤ (0x0003#16).toNat ∧ (0x0003#16).toNat < min [1#8, 2#8, 3#8, 4#8].length 32768) ∧
    max (min [1#8, 2#8, 3#8, 4#8].length 32768) (min [0x09#8].length 32768) ≤ (0x0004#16).toNat ∧
    0x8000 ≤ (0x8000#16).toNat := by decide

theorem witness_O37 : sample.mem.wf := by decide

theorem witness_O39 :
    ((∃ t, exec .regReadA sample = .next t) ∧ isRead .regReadA = true) ∧
    ((∃ t, exec (.loadImage [1]) sample = .next t) ∧ isRead (.loadImage [1]) = false) :=
  ⟨⟨⟨_, rfl⟩, rfl⟩, ⟨_, rfl⟩, rfl⟩

/-- O42: power-on, and the state after each reset command from a state that is not zero. -/
theorem witness_O42 :
    State.reset = State.reset ∧ (∃ s, exec .rfReset sample = .next s ∧ s ≠ State.reset) ∧
    ∃ s, exec .memReset sample = .next s ∧ s ≠ State.reset := ⟨rfl, ⟨_, rfl, by decide⟩, _, rfl, by decide⟩

theorem witness_O44 : jump.wellFormed = true := by decide

theorem witness_O45_O46 :
    (pending jump).flagNibbleZero ∧ (pending jump).mem.wf ∧ (∃ t, step (pending jump) = .next t) ∧
    ∃ t, step (pending illFormed) = .next t := ⟨by decide, by decide, ⟨_, rfl⟩, _, rfl⟩

theorem witness_O48 : sample.mem.wf ∧ ∀ a : Word, sample.mem.byteAt a.toNat = sample.mem.byteAt a.toNat :=
  ⟨by decide, fun _ => rfl⟩

theorem witness_O49_command : ∃ t, exec (.regWriteSP 0xFFFF) sample = .next t := ⟨_, rfl⟩

/-- O49: a step that changes PC, and one that changes SP. -/
theorem witness_O49_step :
    (∃ t, step (pending jump) = .next t ∧ t.rf.pc ≠ (pending jump).rf.pc) ∧
    ∃ t, step (pending ⟨0x28, 0, 0xFFFC, []⟩) = .next t ∧ t.rf.sp ≠ (pending ⟨0x28, 0, 0xFFFC, []⟩).rf.sp :=
  ⟨⟨_, rfl, by decide⟩, _, rfl, by decide⟩

theorem witness_O50_O51 :
    (∃ t, exec (.memWriteWord 0xFFFF 0x1234) sample = .next t) ∧ ∃ t, exec (.pairWriteAF 0x12FF) sample = .next t :=
  ⟨⟨_, rfl⟩, _, rfl⟩

/-- O52: two states that differ in registers only, and two that differ in memory only. -/
theorem witness_O52 :
    ((∃ t, exec (.memReadByte 0) sample = .next t) ∧
      (∃ t, exec (.memReadByte 0) { sample with rf := RegisterFile.reset } = .next t) ∧
      isMemoryCommand (.memReadByte 0) = true ∧ sample.mem = ({ sample with rf := RegisterFile.reset } : State).mem) ∧
    ((∃ t, exec .pairReadAF sample = .next t) ∧ (∃ t, exec .pairReadAF { sample with mem := [] } = .next t) ∧
      isMemoryCommand .pairReadAF = false ∧ sample.rf = ({ sample with mem := [] } : State).rf) :=
  ⟨⟨⟨_, rfl⟩, ⟨_, rfl⟩, rfl, rfl⟩, ⟨_, rfl⟩, ⟨_, rfl⟩, rfl, rfl⟩

theorem witness_O55 :
    (SplitsInto (.loadImage [0xAA, 0xBB]) [.write 1 0xBB, .write 0 0xAA] ∧
      ∃ t, exec (.loadImage [0xAA, 0xBB]) sample = .next t) ∧
    SplitsInto (.memReadWord 0xFFFF) [.read 0x0000, .read 0xFFFF] :=
  ⟨⟨List.Perm.swap _ _ _, _, rfl⟩, List.Perm.swap _ _ _⟩

/-- O56: a split of each command, both byte writes first, and the reader, high byte first, then sees the new high
byte, which differs from the old one. -/
theorem witness_O56 :
    ∃ (ws rs zs : List Event), SplitsInto (.memWriteWord 0xFFFF 0xBEEF) ws ∧ SplitsInto (.memReadWord 0xFFFF) rs ∧
      rs = [.read (nextAddr 0xFFFF), .read 0xFFFF] ∧ sample.readByte (nextAddr 0xFFFF) ≠ highByte 0xBEEF ∧
      Interleaves ws rs zs ∧ (nextAddr 0xFFFF, highByte 0xBEEF) ∈ seenBytes zs sample :=
  ⟨_, _, _, rfl, List.Perm.swap _ _ _, rfl, by decide, .left _ (.left _ (.right _ (.right _ .none))), by decide⟩

end Sys2Proof.Tests
end

section
/-! SUPPORT. The scope rules (00_scope.md): a command acts on one component, and a step is one command. -/

namespace Sys2Proof.Proofs

open Sys2Proof Sys2Proof.Machine Sys2Proof.Statements

/-- An operation of the MemoryBus alone (R2): the next memory and the response are functions of the memory, and
no other field changes. -/
def ActsOnMemory (op : State → Host.Outcome State Fault Refusal) : Prop :=
  ∃ (nextMem : Memory → Memory) (answer : Memory → Option Word),
    ∀ s, op s = .next { s with mem := nextMem s.mem, response := answer s.mem }

/-- An operation of the RegisterFile alone (R2): the next registers and the response are functions of the
registers, and no other field changes. -/
def ActsOnRegisters (op : State → Host.Outcome State Fault Refusal) : Prop :=
  ∃ (nextRf : RegisterFile → RegisterFile) (answer : RegisterFile → Option Word),
    ∀ s, op s = .next { s with rf := nextRf s.rf, response := answer s.rf }

theorem regRead_actsOnRegisters (r : Reg8) : ActsOnRegisters fun s => .next (regRead r s) :=
  ⟨id, fun rf => some (zext16 (rf.get r)), fun _ => rfl⟩

theorem pointerRead_actsOnRegisters (p : Pointer) : ActsOnRegisters fun s => .next (pointerRead p s) :=
  ⟨id, fun rf => some (rf.getPointer p), fun _ => rfl⟩

theorem pairRead_actsOnRegisters (p : Pair) : ActsOnRegisters fun s => .next (pairRead p s) :=
  ⟨id, fun rf => some (rf.getPair p), fun _ => rfl⟩

theorem flagRead_actsOnRegisters (x : Flag) : ActsOnRegisters fun s => .next (flagRead x s) :=
  ⟨id, fun rf => some (flagData (flagOf x rf.f)), fun _ => rfl⟩

theorem regWrite_actsOnRegisters (r : Reg8) (v : Byte) : ActsOnRegisters fun s => .next (regWrite r v s) :=
  ⟨fun rf => rf.set r (regWriteByte r v), fun _ => none, fun _ => rfl⟩

theorem pointerWrite_actsOnRegisters (p : Pointer) (v : Word) :
    ActsOnRegisters fun s => .next (pointerWrite p v s) :=
  ⟨fun rf => rf.setPointer p v, fun _ => none, fun _ => rfl⟩

theorem pairWrite_actsOnRegisters (p : Pair) (v : Word) : ActsOnRegisters fun s => .next (pairWrite p v s) :=
  ⟨fun rf => rf.setPair p v, fun _ => none, fun _ => rfl⟩

theorem flagWrite_actsOnRegisters (x : Flag) (on : Bool) : ActsOnRegisters fun s => .next (flagWrite x on s) :=
  ⟨fun rf => { rf with f := withFlag x on rf.f }, fun _ => none, fun _ => rfl⟩

/-- Every command of the MemoryBus (R34) acts on the memory alone. -/
theorem exec_actsOnMemory {i : Instr} (h : isMemoryCommand i = true) : ActsOnMemory (exec i) := by
  cases i with
  | memReset => exact ⟨fun _ => [], fun _ => none, fun _ => rfl⟩
  | memReadByte a => exact ⟨id, fun m => some (zext16 (m.byteAt a.toNat)), fun _ => rfl⟩
  | memWriteByte a v => exact ⟨fun m => m.setByte a.toNat v, fun _ => none, fun _ => rfl⟩
  | memReadWord a =>
    exact ⟨id, fun m => some (joinBytes (m.byteAt (nextAddr a).toNat) (m.byteAt a.toNat)), fun _ => rfl⟩
  | memWriteWord a v =>
    exact ⟨fun m => (m.setByte a.toNat (lowByte v)).setByte (nextAddr a).toNat (highByte v), fun _ => none,
      fun _ => rfl⟩
  | loadImage data => exact ⟨fun m => m.load data, fun _ => none, fun _ => rfl⟩
  | _ => cases h

/-- Every other command acts on the registers alone. -/
theorem exec_actsOnRegisters {i : Instr} (h : isMemoryCommand i = false) : ActsOnRegisters (exec i) := by
  cases i with
  | rfReset => exact ⟨fun _ => RegisterFile.reset, fun _ => none, fun _ => rfl⟩
  | regReadA => exact regRead_actsOnRegisters .a
  | regReadB => exact regRead_actsOnRegisters .b
  | regReadC => exact regRead_actsOnRegisters .c
  | regReadD => exact regRead_actsOnRegisters .d
  | regReadE => exact regRead_actsOnRegisters .e
  | regReadF => exact regRead_actsOnRegisters .f
  | regReadH => exact regRead_actsOnRegisters .h
  | regReadL => exact regRead_actsOnRegisters .l
  | regReadSP => exact pointerRead_actsOnRegisters .sp
  | regReadPC => exact pointerRead_actsOnRegisters .pc
  | regWriteA v => exact regWrite_actsOnRegisters .a v
  | regWriteB v => exact regWrite_actsOnRegisters .b v
  | regWriteC v => exact regWrite_actsOnRegisters .c v
  | regWriteD v => exact regWrite_actsOnRegisters .d v
  | regWriteE v => exact regWrite_actsOnRegisters .e v
  | regWriteF v => exact regWrite_actsOnRegisters .f v
  | regWriteH v => exact regWrite_actsOnRegisters .h v
  | regWriteL v => exact regWrite_actsOnRegisters .l v
  | regWriteSP v => exact pointerWrite_actsOnRegisters .sp v
  | regWritePC v => exact pointerWrite_actsOnRegisters .pc v
  | pairReadAF => exact pairRead_actsOnRegisters .af
  | pairReadBC => exact pairRead_actsOnRegisters .bc
  | pairReadDE => exact pairRead_actsOnRegisters .de
  | pairReadHL => exact pairRead_actsOnRegisters .hl
  | pairWriteAF v => exact pairWrite_actsOnRegisters .af v
  | pairWriteBC v => exact pairWrite_actsOnRegisters .bc v
  | pairWriteDE v => exact pairWrite_actsOnRegisters .de v
  | pairWriteHL v => exact pairWrite_actsOnRegisters .hl v
  | flagReadZ => exact flagRead_actsOnRegisters .z
  | flagReadN => exact flagRead_actsOnRegisters .n
  | flagReadH => exact flagRead_actsOnRegisters .h
  | flagReadC => exact flagRead_actsOnRegisters .c
  | flagWriteZ b => exact flagWrite_actsOnRegisters .z b
  | flagWriteN b => exact flagWrite_actsOnRegisters .n b
  | flagWriteH b => exact flagWrite_actsOnRegisters .h b
  | flagWriteC b => exact flagWrite_actsOnRegisters .c b
  | _ => cases h

/-- Settles O52: the next state of a command is a function of its own component, with the other one kept. -/
theorem componentsAreIndependent : Obligations.ComponentsAreIndependent := by
  intro i s s' t t' hs hs'
  refine ⟨fun h => ?_, fun h => ?_⟩
  · obtain ⟨nextMem, answer, hexec⟩ := exec_actsOnMemory h
    rw [hexec] at hs hs'
    cases hs
    cases hs'
    exact ⟨rfl, fun hmem => ⟨congrArg nextMem hmem, congrArg answer hmem⟩⟩
  · obtain ⟨nextRf, answer, hexec⟩ := exec_actsOnRegisters h
    rw [hexec] at hs hs'
    cases hs
    cases hs'
    exact ⟨rfl, fun hrf => ⟨congrArg nextRf hrf, congrArg answer hrf⟩⟩

/-- Settles O8: the step takes the oldest request off the port and its decoding selects the arm that runs it. -/
theorem stepRunsTheDecodedInstruction : Obligations.StepRunsTheDecodedInstruction := by
  intro s r rest i hreq hdec
  unfold step
  rw [State.takeRequest_cons hreq]
  simp only [hdec]

end Sys2Proof.Proofs
end

section
/-! SUPPORT. The commands by the name of what they read or write: the exact next state of each, for every
register, pointer, pair and flag. -/

namespace Sys2Proof.Proofs

open Sys2Proof Sys2Proof.Machine Sys2Proof.Statements

theorem exec_regReadOf (r : Reg8) (s : State) :
    exec (regReadOf r) s = .next { s with response := some (zext16 (s.rf.get r)) } := by
  cases r <;> rfl

theorem exec_pointerReadOf (p : Pointer) (s : State) :
    exec (pointerReadOf p) s = .next { s with response := some (s.rf.getPointer p) } := by
  cases p <;> rfl

theorem exec_pointerWriteOf (p : Pointer) (v : Word) (s : State) :
    exec (pointerWriteOf p v) s = .next (pointerWrite p v s) := by
  cases p <;> rfl

theorem exec_pairReadOf (p : Pair) (s : State) :
    exec (pairReadOf p) s = .next { s with response := some (s.rf.getPair p) } := by
  cases p <;> rfl

theorem exec_flagReadOf (x : Flag) (s : State) :
    exec (flagReadOf x) s = .next { s with response := some (flagData (flagOf x s.rf.f)) } := by
  cases x <;> rfl

theorem exec_memReadByte (a : Word) (s : State) :
    exec (.memReadByte a) s = .next { s with response := some (zext16 (s.readByte a)) } := rfl

theorem exec_memReadWord (a : Word) (s : State) :
    exec (.memReadWord a) s =
      .next { s with response := some (joinBytes (s.readByte (nextAddr a)) (s.readByte a)) } := rfl

end Sys2Proof.Proofs
end

section
/-! SUPPORT. The state (10_state.md): what SP and PC hold after a command and after a step (R26, R27), and the
reset values (R35, R36). -/

namespace Sys2Proof.Proofs

open Sys2Proof Sys2Proof.Machine Sys2Proof.Statements

/-- The value a command writes into SP or PC, if it writes one (R118, R119, R190; R38 for the commands that write
none). -/
def pointerStored (i : Instr) (p : Pointer) : Option Word :=
  match i, p with
  | .rfReset, _ => some 0x0000#16
  | .regWriteSP v, .sp => some v
  | .regWritePC v, .pc => some v
  | _, _ => none

/-- Only RF_RESET and the write of the pointer itself store into it. -/
theorem eq_of_pointerStored_eq_some {i : Instr} {p : Pointer} {v : Word} (h : pointerStored i p = some v) :
    i = .rfReset ∨ i = pointerWriteOf p v := by
  unfold pointerStored at h
  split at h
  · exact .inl rfl
  · cases h; exact .inr rfl
  · cases h; exact .inr rfl
  · cases h

/-- SP and PC after any command: what the command stores there, or what they held. -/
theorem exec_getPointer {i : Instr} {s t : State} (h : exec i s = .next t) (p : Pointer) :
    t.rf.getPointer p = (pointerStored i p).getD (s.rf.getPointer p) := by
  cases i with
  | rfReset => cases h; cases p <;> rfl
  | regWriteSP v => cases h; cases p <;> rfl
  | regWritePC v => cases h; cases p <;> rfl
  | regWriteA v | regWriteB v | regWriteC v | regWriteD v | regWriteE v | regWriteF v | regWriteH v
  | regWriteL v => cases h; exact regWrite_getPointer _ v s p
  | pairWriteAF v | pairWriteBC v | pairWriteDE v | pairWriteHL v => cases h; exact pairWrite_getPointer _ v s p
  | flagWriteZ b | flagWriteN b | flagWriteH b | flagWriteC b => cases h; exact flagWrite_getPointer _ b s p
  | _ => cases h; rfl -- the reads and the commands of the MemoryBus leave the registers alone

/-- A step that changes a pointer performs RF_RESET or the write of that pointer. -/
theorem step_changes_pointer {p : Pointer} {s t : State} (hstep : step s = .next t)
    (hne : t.rf.getPointer p ≠ s.rf.getPointer p) :
    ∃ (r : Request) (rest : List Request), s.requests = r :: rest ∧
      (decode r = .ok .rfReset ∨ ∃ v : Word, decode r = .ok (pointerWriteOf p v)) := by
  obtain ⟨-, hs⟩ | ⟨r, rest, i, hreq, hdec, hs⟩ | ⟨r, rest, c, -, -, hs⟩ := step_cases s
  · rw [hs] at hstep
    cases hstep
    exact absurd rfl hne
  · rw [hs] at hstep
    have hp := exec_getPointer hstep p
    refine ⟨r, rest, hreq, ?_⟩
    cases hst : pointerStored i p with
    | none => rw [hst] at hp; exact absurd hp hne
    | some v =>
      obtain rfl | rfl := eq_of_pointerStored_eq_some hst
      · exact .inl hdec
      · exact .inr ⟨v, hdec⟩
  · rw [hs] at hstep
    cases hstep
    exact absurd rfl hne

/-- Settles O49: by what each command stores into SP and PC, and the three cases of a step. -/
theorem pointersChangeOnlyByTheirWriteOrReset : Obligations.PointersChangeOnlyByTheirWriteOrReset := by
  refine ⟨fun i s t h => ⟨(exec_getPointer h .sp).trans ?_, (exec_getPointer h .pc).trans ?_⟩,
    fun s p v => ?_, fun s t => step_changes_pointer (p := .sp), fun s t => step_changes_pointer (p := .pc)⟩
  · cases i <;> rfl
  · cases i <;> rfl
  · refine ⟨_, _, exec_pointerWriteOf p v s, exec_pointerReadOf p _, congrArg some ?_⟩
    rw [pointerWrite_getPointer, if_pos rfl]

@[simp] theorem get_reset (r : Reg8) : RegisterFile.reset.get r = 0x00#8 := by
  cases r <;> rfl

@[simp] theorem getPointer_reset (p : Pointer) : RegisterFile.reset.getPointer p = 0x0000#16 := by
  cases p <;> rfl

@[simp] theorem getPair_reset (p : Pair) : RegisterFile.reset.getPair p = 0x0000#16 := by
  cases p <;> rfl

@[simp] theorem flagOf_reset (x : Flag) : flagOf x RegisterFile.reset.f = false := by
  cases x <;> rfl

/-- The registers at power-on and after RF_RESET. -/
theorem rf_eq_reset {s : State} (h : s = State.reset ∨ ∃ s₀ : State, exec .rfReset s₀ = .next s) :
    s.rf = RegisterFile.reset := by
  obtain rfl | ⟨s₀, hexec⟩ := h
  · rfl
  · cases hexec; rfl

/-- Every byte at power-on and after MEM_RESET. -/
theorem readByte_eq_zero {s : State} (h : s = State.reset ∨ ∃ s₀ : State, exec .memReset s₀ = .next s)
    (a : Word) : s.readByte a = 0x00#8 := by
  obtain rfl | ⟨s₀, hexec⟩ := h
  · rfl
  · cases hexec; rfl

/-- Settles O42: both kinds of state have the reset registers, or no cell, and each read answers what they hold. -/
theorem powerOnStateIsAllZero : Obligations.PowerOnStateIsAllZero := by
  refine ⟨fun s hs => ?_, fun s hs a => ?_⟩
  · have hrf := rf_eq_reset hs
    rw [hrf]
    refine ⟨get_reset, rfl, rfl, flagOf_reset, getPair_reset,
      fun r => ?_, fun p => ?_, fun p => ?_, fun x => ?_⟩
    · rw [exec_regReadOf, hrf, get_reset]; rfl
    · rw [exec_pointerReadOf, hrf, getPointer_reset]
    · rw [exec_pairReadOf, hrf, getPair_reset]
    · rw [exec_flagReadOf, hrf, flagOf_reset]; rfl
  · have hbyte := readByte_eq_zero hs
    refine ⟨hbyte a, ?_, ?_⟩
    · rw [exec_memReadByte, hbyte]; rfl
    · rw [exec_memReadWord, hbyte, hbyte]; rfl

end Sys2Proof.Proofs
end

section
/-! SUPPORT. The decoder against the checks of R88: the shape a command byte has and the code lists it is in,
the first failing check in the order of R204, and what decoding and the step do with it. -/

namespace Sys2Proof.Proofs

open Sys2Proof Sys2Proof.Machine Sys2Proof.Statements

/-- A command byte of shape `sh` is in exactly the code lists of WellFormed.lean that the shape stands for. -/
def CodeListsAgree (cmd : Byte) (sh : Shape) : Prop :=
  cmd ∈ knownCodes ∧
  (cmd ∈ addrCodes ↔ sh.usesAddr = true) ∧
  (cmd ∈ wdataCodes ↔ sh.wdataBits ≠ 0) ∧
  (cmd ∈ byteWriteCodes ++ [0x71] ↔ sh.wdataBits = 8) ∧
  (cmd ∈ flagWriteCodes ↔ sh.wdataBits = 1) ∧
  (cmd = 0x74 ↔ sh.usesImage = true)

/-- The classes and selectors of R82 and R86 give exactly the 43 codes of R85 a shape. -/
theorem shapeOf_eq_none_iff (cmd : Byte) : shapeOf cmd = none ↔ cmd ∉ knownCodes := by
  revert cmd
  decide

theorem codeListsAgree_of_shapeOf {cmd : Byte} {sh : Shape} (h : shapeOf cmd = some sh) :
    CodeListsAgree cmd sh := by
  have hcodes : ∀ cmd ∈ knownCodes, ∀ sh ∈ shapeOf cmd, CodeListsAgree cmd sh := by
    unfold CodeListsAgree
    decide
  have hknown : cmd ∈ knownCodes := by
    by_contra hcmd
    rw [(shapeOf_eq_none_iff cmd).mpr hcmd] at h
    cases h
  exact hcodes cmd hknown sh h

/-- The bits of a word from bit `k` up are zero exactly when the word is below `2 ^ k`. -/
theorem extractLsb'_high_eq_zero_iff (v : Word) {k n : Nat} (h : k + n = 16) :
    v.extractLsb' k n = 0 ↔ v.toNat < 2 ^ k := by
  have hdiv : v.toNat / 2 ^ k < 2 ^ n :=
    Nat.div_lt_of_lt_mul (by rw [← pow_add, h]; exact v.isLt)
  rw [← BitVec.toNat_inj, BitVec.extractLsb'_toNat, Nat.shiftRight_eq_div_pow, Nat.mod_eq_of_lt hdiv]
  simp [Nat.div_eq_zero_iff]

section PassesOfShape

variable {r : Request} {sh : Shape}

theorem not_passes_addrUnusedZero_iff (h : shapeOf r.cmd = some sh) :
    r.passes .addrUnusedZero = false ↔ sh.usesAddr = false ∧ r.addr ≠ 0 := by
  obtain ⟨-, haddr, -⟩ := codeListsAgree_of_shapeOf h
  simp [Request.passes, haddr]

theorem not_passes_wdataUnusedZero_iff (h : shapeOf r.cmd = some sh) :
    r.passes .wdataUnusedZero = false ↔ sh.wdataBits = 0 ∧ r.wdata ≠ 0 := by
  obtain ⟨-, -, hwdata, -⟩ := codeListsAgree_of_shapeOf h
  simp [Request.passes, hwdata]

/-- Where `wdata` is unused, `wdata_width` has nothing to say: the check before it has failed already, or `wdata`
is 0. -/
theorem not_passes_wdataWidth_iff (h : shapeOf r.cmd = some sh) (hz : ¬(sh.wdataBits = 0 ∧ r.wdata ≠ 0)) :
    r.passes .wdataWidth = false ↔ r.wdata.toNat ≥ 2 ^ sh.wdataBits := by
  obtain ⟨-, -, -, hbyte, hbool, -⟩ := codeListsAgree_of_shapeOf h
  simp only [Request.passes, hbyte, hbool, extractLsb'_high_eq_zero_iff r.wdata (k := 8) (n := 8) rfl,
    extractLsb'_high_eq_zero_iff r.wdata (k := 1) (n := 15) rfl, decide_eq_false_iff_not]
  cases sh with
  | bare | addr | image =>
    have hwdata : r.wdata = 0 := by simpa [Shape.wdataBits] using hz
    simp [Shape.wdataBits, hwdata]
  | byte | addrByte => simp [Shape.wdataBits]
  | bool => simp [Shape.wdataBits, Nat.succ_le_iff]
  | word | addrWord => simpa [Shape.wdataBits] using r.wdata.isLt

theorem not_passes_imageUnusedEmpty_iff (h : shapeOf r.cmd = some sh) :
    r.passes .imageUnusedEmpty = false ↔ sh.usesImage = false ∧ r.image ≠ [] := by
  obtain ⟨-, -, -, -, -, himage⟩ := codeListsAgree_of_shapeOf h
  simp only [Request.passes, himage]
  simp

end PassesOfShape

theorem not_passes_cmdKnown_iff (r : Request) : r.passes .cmdKnown = false ↔ r.cmd ∉ knownCodes := by
  simp [Request.passes]

/-- The search for a failing check stops at `k` exactly when `P`, the condition under which `k` fails. -/
theorem find?_failing_cons {r : Request} {k : Check} {ks : List Check} {P : Prop} [Decidable P]
    (h : r.passes k = false ↔ P) :
    (k :: ks).find? (fun c => !r.passes c) = if P then some k else ks.find? fun c => !r.passes c := by
  by_cases hP : P
  · rw [if_pos hP, List.find?_cons_of_pos (by simpa [h] using hP)]
  · rw [if_neg hP, List.find?_cons_of_neg (by simpa [h] using hP)]

/-- The decoder's check, made on classes and selectors, is the first failing check of R88 in the order of R204. -/
theorem firstFailed_eq_find? (r : Request) :
    firstFailed r = Check.inOrder.find? fun c => !r.passes c := by
  unfold firstFailed Check.inOrder
  rw [find?_failing_cons (not_passes_cmdKnown_iff r)]
  cases hsh : shapeOf r.cmd with
  | none => rw [if_pos ((shapeOf_eq_none_iff r.cmd).mp hsh)]
  | some sh =>
    obtain ⟨hknown, -⟩ := codeListsAgree_of_shapeOf hsh
    rw [if_neg (not_not_intro hknown), find?_failing_cons (not_passes_addrUnusedZero_iff hsh),
      find?_failing_cons (not_passes_wdataUnusedZero_iff hsh)]
    refine ite_congr rfl (fun _ => rfl) fun _ => ite_congr rfl (fun _ => rfl) fun hz => ?_
    rw [find?_failing_cons (not_passes_wdataWidth_iff hsh hz),
      find?_failing_cons (not_passes_imageUnusedEmpty_iff hsh), List.find?_nil]

theorem wellFormed_iff_firstFailed (r : Request) : r.wellFormed = true ↔ firstFailed r = none := by
  simp [firstFailed_eq_find?, Request.wellFormed]

theorem passes_of_firstFailed {r : Request} {c : Check} (h : firstFailed r = some c) :
    r.passes c = false := by
  rw [firstFailed_eq_find?] at h
  simpa using List.find?_some h

/-- Each of the 43 codes has a command in the table R85. -/
theorem instrOf_isSome {r : Request} (h : r.cmd ∈ knownCodes) : (instrOf r).isSome := by
  obtain ⟨cmd, addr, wdata, image⟩ := r
  have hall : (knownCodes.all fun k => (instrOf ⟨k, addr, wdata, image⟩).isSome) = true := rfl
  exact List.all_eq_true.mp hall cmd h

/-- Decoding refuses with exactly the first failing check: a request that fails none has a command. -/
theorem decode_eq_error_iff (r : Request) (c : Check) : decode r = .error c ↔ firstFailed r = some c := by
  cases hf : firstFailed r with
  | some k => simp [decode, hf]
  | none =>
    obtain ⟨hcmd, -⟩ := (Laws.wellFormed_iff r).mp ((wellFormed_iff_firstFailed r).mpr hf)
    have hknown : r.cmd ∈ knownCodes := by simpa [Request.passes] using hcmd
    obtain ⟨i, hi⟩ := Option.isSome_iff_exists.mp (instrOf_isSome hknown)
    simp [decode, hf, hi]

theorem wellFormed_iff_decode_ok (r : Request) : r.wellFormed = true ↔ ∃ i, decode r = .ok i := by
  rw [wellFormed_iff_firstFailed]
  cases hd : decode r with
  | ok i => simp [Option.eq_none_iff_forall_ne_some, ← decode_eq_error_iff, hd]
  | error c => simp [(decode_eq_error_iff r c).mp hd]

theorem step_issue_of_decode_error {r : Request} {c : Check} (h : decode r = .error c) (s : State) :
    step (s.issue r) = .next (s.refuse c) := by
  unfold step
  rw [State.takeRequest_issue]
  simp only [h]

/-- Settles O4: decoding refuses exactly when some check of R88 fails, and its reason is a failing check. -/
theorem requestDecodesExactlyWhenWellFormed : Obligations.RequestDecodesExactlyWhenWellFormed := by
  refine fun r => ⟨wellFormed_iff_decode_ok r, fun hill s => ?_⟩
  obtain ⟨c, hc⟩ : ∃ c, firstFailed r = some c :=
    Option.ne_none_iff_exists'.mp (by simp [← wellFormed_iff_firstFailed, hill])
  have hdec := (decode_eq_error_iff r c).mpr hc
  exact ⟨c, s.refuse c, hdec, passes_of_firstFailed hc, step_issue_of_decode_error hdec s, rfl, rfl, rfl, rfl,
    by simp [State.refuse]⟩

end Sys2Proof.Proofs
end

section
/-! SUPPORT. The decoder on the requests of the register access commands (30_encoding.md R83, R85, R88): the read and
the write of each register and pointer is decoded from its request, and a byte write with a wide `wdata` is refused. -/

namespace Sys2Proof.Proofs

open Sys2Proof Sys2Proof.Machine Sys2Proof.Statements

theorem decode_of_wellFormed {r : Request} {i : Instr} (hr : r.wellFormed = true) (hi : instrOf r = some i) :
    decode r = .ok i := by
  simp [decode, (wellFormed_iff_firstFailed r).mp hr, hi]

/-- A byte written with more than its eight bits is refused, not truncated (R88). -/
theorem decode_byteRequest_wide {cmd : Byte} (hcmd : cmd ∈ byteWriteCodes) {w : Word}
    (hw : w.extractLsb' 8 8 ≠ 0#8) : decode (dataRequest cmd w) = .error .wdataWidth := by
  have hshape : shapeOf cmd = some .byte := by revert cmd; decide
  have hwide : ¬w.toNat < 2 ^ 8 := (extractLsb'_high_eq_zero_iff w (n := 8) rfl).not.mp hw
  rw [decode_eq_error_iff]
  simp [firstFailed, dataRequest, hshape, Shape.usesAddr, Shape.wdataBits]
  omega

theorem byteOperand_setWidth (v : Byte) : byteOperand (v.setWidth 16) = v :=
  (BitVec.extractLsb'_setWidth_of_le (by decide)).trans BitVec.extractLsb'_eq_self

theorem encode_regWriteOf (r : Reg8) :
    ∃ cmd ∈ byteWriteCodes, ∀ v, encode (regWriteOf r v) = dataRequest cmd (v.setWidth 16) := by
  cases r <;> exact ⟨_, by decide, fun _ => rfl⟩

theorem decode_encode_regReadOf (r : Reg8) : decode (encode (regReadOf r)) = .ok (regReadOf r) := by
  cases r <;> rfl

theorem decode_encode_pointerReadOf (p : Pointer) :
    decode (encode (pointerReadOf p)) = .ok (pointerReadOf p) := by
  cases p <;> rfl

theorem decode_encode_regWriteOf (r : Reg8) (v : Byte) :
    decode (encode (regWriteOf r v)) = .ok (regWriteOf r v) := by
  have hwf : (encode (regWriteOf r v)).wellFormed = true := by
    obtain ⟨cmd, hcmd, henc⟩ := encode_regWriteOf r
    rw [henc]
    exact Laws.byteRequest_wellFormed hcmd v
  have hinstr : instrOf (encode (regWriteOf r v)) = some (regWriteOf r v) := by
    cases r <;> simp [regWriteOf, encode, dataRequest, instrOf, byteOperand_setWidth]
  exact decode_of_wellFormed hwf hinstr

theorem decode_encode_pointerWriteOf (p : Pointer) (v : Word) :
    decode (encode (pointerWriteOf p v)) = .ok (pointerWriteOf p v) := by
  have hwf : (encode (pointerWriteOf p v)).wellFormed = true := by
    cases p <;> exact Laws.wordRequest_wellFormed (by decide) v
  have hinstr : instrOf (encode (pointerWriteOf p v)) = some (pointerWriteOf p v) := by
    cases p <;> rfl
  exact decode_of_wellFormed hwf hinstr

/-- The request of a register write with another `wdata`, too wide for the register. -/
theorem decode_regWriteOf_wide (r : Reg8) (v : Byte) {w : Word} (hw : w.extractLsb' 8 8 ≠ 0#8) :
    decode { encode (regWriteOf r v) with wdata := w } = .error .wdataWidth := by
  obtain ⟨cmd, hcmd, henc⟩ := encode_regWriteOf r
  rw [henc]
  exact decode_byteRequest_wide hcmd hw

end Sys2Proof.Proofs
end

section
/-! SUPPORT. The register access commands (40_register_access.md): each register as a half of its pair (R28), what a
read answers and what a write stores. -/

namespace Sys2Proof.Proofs

open Sys2Proof Sys2Proof.Machine Sys2Proof.Statements

theorem exec_regWriteOf (r : Reg8) (v : Byte) (s : State) :
    exec (regWriteOf r v) s = .next { s with rf := s.rf.set r (regWriteByte r v), response := none } := by
  cases r <;> rfl

theorem getPair_set_pairHigh (rf : RegisterFile) (p : Pair) (v : Byte) :
    (rf.set (pairHigh p) v).getPair p = joinBytes v (rf.get (pairLow p)) := by
  unfold RegisterFile.getPair
  rw [RegisterFile.get_set_same, RegisterFile.get_set_other _ _ _ _ (pairHigh_ne_pairLow p).symm]

theorem getPair_set_pairLow (rf : RegisterFile) (p : Pair) (v : Byte) :
    (rf.set (pairLow p) v).getPair p = joinBytes (rf.get (pairHigh p)) v := by
  unfold RegisterFile.getPair
  rw [RegisterFile.get_set_same, RegisterFile.get_set_other _ _ _ _ (pairHigh_ne_pairLow p)]

/-- REG_READ of the first register of a pair. -/
theorem regReadOf_pairHigh (p : Pair) (s : State) :
    decode (encode (regReadOf (pairHigh p))) = .ok (regReadOf (pairHigh p)) ∧
    exec (regReadOf (pairHigh p)) s = .next { s with response := some (zext16 (s.rf.get (pairHigh p))) } ∧
    s.rf.get (pairHigh p) = highByte (s.rf.getPair p) :=
  ⟨decode_encode_regReadOf _, exec_regReadOf _ s, (highByte_joinBytes _ _).symm⟩

/-- REG_READ of the second register of a pair. -/
theorem regReadOf_pairLow (p : Pair) (s : State) :
    decode (encode (regReadOf (pairLow p))) = .ok (regReadOf (pairLow p)) ∧
    exec (regReadOf (pairLow p)) s = .next { s with response := some (zext16 (s.rf.get (pairLow p))) } ∧
    s.rf.get (pairLow p) = lowByte (s.rf.getPair p) :=
  ⟨decode_encode_regReadOf _, exec_regReadOf _ s, (lowByte_joinBytes _ _).symm⟩

/-- Settles O11: each of the seven registers, F left out, is read as one half of its pair. -/
theorem regReadAnswersTheRegisterZeroExtended : Obligations.RegReadAnswersTheRegisterZeroExtended := fun s =>
  ⟨regReadOf_pairHigh .af s, regReadOf_pairHigh .bc s, regReadOf_pairLow .bc s, regReadOf_pairHigh .de s,
    regReadOf_pairLow .de s, regReadOf_pairHigh .hl s, regReadOf_pairLow .hl s⟩

/-- The flags stand in the zero-extended F at their own bit numbers. -/
theorem getLsbD_zext16_flagBit (x : Flag) (f : Byte) : (zext16 f).getLsbD (flagBit x) = flagOf x f := by
  have hbit : flagBit x < 16 := by cases x <;> decide
  simp [zext16, flagOf, hbit]

/-- A byte with a zero low nibble is 16 times its high nibble. -/
theorem zext16_eq_of_lowNibble_zero {f : Byte} (h : f.extractLsb' 0 4 = 0#4) :
    ∃ k : Nat, k < 16 ∧ zext16 f = BitVec.ofNat 16 (16 * k) := by
  have hmod : f.toNat % 16 = 0 := by simpa using congrArg BitVec.toNat h
  have hlt : f.toNat < 256 := f.isLt
  refine ⟨f.toNat / 16, by omega, BitVec.eq_of_toNat_eq ?_⟩
  simp only [zext16, BitVec.toNat_setWidth, BitVec.toNat_ofNat]
  omega

/-- Settles O12: F is read as every register is; its bits are the flags over a nibble of zeros. -/
theorem regReadFAnswersTheFlagsByte : Obligations.RegReadFAnswersTheFlagsByte := fun s =>
  ⟨decode_encode_regReadOf .f, exec_regReadOf .f s, fun x => getLsbD_zext16_flagBit x s.rf.f,
    zext16_eq_of_lowNibble_zero⟩

/-- Settles O13: each pointer is read from its request as it stands. -/
theorem regReadOfPointersAnswersThem : Obligations.RegReadOfPointersAnswersThem := fun s =>
  ⟨⟨decode_encode_pointerReadOf .sp, exec_pointerReadOf .sp s⟩,
    ⟨decode_encode_pointerReadOf .pc, exec_pointerReadOf .pc s⟩⟩

/-- REG_WRITE of a register that is not F stores the byte unmasked; a wide `wdata` is refused. -/
theorem regWriteOf_general {r : Reg8} (hr : r ≠ .f) (s : State) (v : Byte) (w : Word) :
    decode (encode (regWriteOf r v)) = .ok (regWriteOf r v) ∧
    exec (regWriteOf r v) s = .next { s with rf := s.rf.set r v, response := none } ∧
    (w.extractLsb' 8 8 ≠ 0#8 → decode { encode (regWriteOf r v) with wdata := w } = .error .wdataWidth) := by
  refine ⟨decode_encode_regWriteOf r v, ?_, decode_regWriteOf_wide r v⟩
  rw [exec_regWriteOf, regWriteByte_general hr]

/-- REG_WRITE of the first register of a pair. -/
theorem regWriteOf_pairHigh (p : Pair) (s : State) (v : Byte) (w : Word) :
    decode (encode (regWriteOf (pairHigh p) v)) = .ok (regWriteOf (pairHigh p) v) ∧
    exec (regWriteOf (pairHigh p) v) s = .next { s with rf := s.rf.set (pairHigh p) v, response := none } ∧
    (s.rf.set (pairHigh p) v).getPair p = joinBytes v (s.rf.get (pairLow p)) ∧
    (w.extractLsb' 8 8 ≠ 0#8 →
      decode { encode (regWriteOf (pairHigh p) v) with wdata := w } = .error .wdataWidth) := by
  have hne : pairHigh p ≠ .f := by cases p <;> decide
  obtain ⟨hdec, hexec, hwide⟩ := regWriteOf_general hne s v w
  exact ⟨hdec, hexec, getPair_set_pairHigh s.rf p v, hwide⟩

/-- REG_WRITE of the second register of a pair other than AF, whose second register is F. -/
theorem regWriteOf_pairLow {p : Pair} (hp : p ≠ .af) (s : State) (v : Byte) (w : Word) :
    decode (encode (regWriteOf (pairLow p) v)) = .ok (regWriteOf (pairLow p) v) ∧
    exec (regWriteOf (pairLow p) v) s = .next { s with rf := s.rf.set (pairLow p) v, response := none } ∧
    (s.rf.set (pairLow p) v).getPair p = joinBytes (s.rf.get (pairHigh p)) v ∧
    (w.extractLsb' 8 8 ≠ 0#8 →
      decode { encode (regWriteOf (pairLow p) v) with wdata := w } = .error .wdataWidth) := by
  have hne : pairLow p ≠ .f := by cases p <;> simp_all [pairLow]
  obtain ⟨hdec, hexec, hwide⟩ := regWriteOf_general hne s v w
  exact ⟨hdec, hexec, getPair_set_pairLow s.rf p v, hwide⟩

/-- Settles O14: each of the seven registers, F left out, is written as one half of its pair. -/
theorem regWriteStoresTheByte : Obligations.RegWriteStoresTheByte := fun s v w =>
  ⟨regWriteOf_pairHigh .af s v w, regWriteOf_pairHigh .bc s v w, regWriteOf_pairLow (p := .bc) (by decide) s v w,
    regWriteOf_pairHigh .de s v w, regWriteOf_pairLow (p := .de) (by decide) s v w,
    regWriteOf_pairHigh .hl s v w, regWriteOf_pairLow (p := .hl) (by decide) s v w⟩

/-- Settles O16: a word is never too wide for a pointer, so every request of the two codes is the write of its word. -/
theorem regWriteOfPointersStoresTheWord : Obligations.RegWriteOfPointersStoresTheWord := fun s v =>
  ⟨⟨decode_encode_pointerWriteOf .sp v, exec_pointerWriteOf .sp v s⟩,
    ⟨decode_encode_pointerWriteOf .pc v, exec_pointerWriteOf .pc v s⟩⟩

end Sys2Proof.Proofs
end

section
/-! SUPPORT. The pair-view commands (41_pair_views.md): the read and the write of each pair is decoded from its request,
the read joins the two registers (R28), the write stores the two halves (R29), and a read after a write. -/

namespace Sys2Proof.Proofs

open Sys2Proof Sys2Proof.Machine Sys2Proof.Statements

theorem decode_encode_pairReadOf (p : Pair) : decode (encode (pairReadOf p)) = .ok (pairReadOf p) := by
  cases p <;> rfl

theorem decode_encode_pairWriteOf (p : Pair) (v : Word) :
    decode (encode (pairWriteOf p v)) = .ok (pairWriteOf p v) := by
  have hwf : (encode (pairWriteOf p v)).wellFormed = true := by
    cases p <;> exact Laws.wordRequest_wellFormed (by decide) v
  have hinstr : instrOf (encode (pairWriteOf p v)) = some (pairWriteOf p v) := by
    cases p <;> rfl
  exact decode_of_wellFormed hwf hinstr

theorem exec_pairWriteOf (p : Pair) (v : Word) (s : State) :
    exec (pairWriteOf p v) s = .next (pairWrite p v s) := by
  cases p <;> rfl

theorem flagBit_lt (x : Flag) : flagBit x < 8 := by cases x <;> decide

/-- The flags stand in a joined value at their own bit numbers when F is its low byte. -/
theorem getLsbD_joinBytes_flagBit (hi f : Byte) (x : Flag) :
    (joinBytes hi f).getLsbD (flagBit x) = flagOf x f := by
  rw [getLsbD_joinBytes, if_pos (flagBit_lt x), flagOf]

theorem joinBytes_lowNibble (hi lo : Byte) : (joinBytes hi lo).extractLsb' 0 4 = lo.extractLsb' 0 4 :=
  calc (joinBytes hi lo).extractLsb' 0 4
      = (lowByte (joinBytes hi lo)).extractLsb' 0 4 := (BitVec.extractLsb'_extractLsb'_of_le (by decide)).symm
    _ = lo.extractLsb' 0 4 := by rw [lowByte_joinBytes]

/-- Settles O18: the answer is A joined with F, so the flags and the low nibble of F are those of the answer. -/
theorem pairReadAFJoinsAAndF : Obligations.PairReadAFJoinsAAndF := fun s =>
  ⟨decode_encode_pairReadOf .af, exec_pairReadOf .af s, getLsbD_joinBytes_flagBit s.rf.a s.rf.f,
    fun hnibble => (joinBytes_lowNibble s.rf.a s.rf.f).trans hnibble⟩

/-- PAIR_READ of a pair: the answer has both registers, whole, as its halves. -/
theorem pairReadOf_joins (p : Pair) (s : State) :
    decode (encode (pairReadOf p)) = .ok (pairReadOf p) ∧
    ∃ w : Word, exec (pairReadOf p) s = .next { s with response := some w } ∧
      w = joinBytes (s.rf.get (pairHigh p)) (s.rf.get (pairLow p)) ∧
      highByte w = s.rf.get (pairHigh p) ∧ lowByte w = s.rf.get (pairLow p) :=
  ⟨decode_encode_pairReadOf p, s.rf.getPair p, exec_pairReadOf p s, rfl, highByte_joinBytes _ _, lowByte_joinBytes _ _⟩

/-- Settles O19: the one rule of a pair read, for each of the three pairs. -/
theorem pairReadJoinsTheTwoRegisters : Obligations.PairReadJoinsTheTwoRegisters := fun s =>
  ⟨pairReadOf_joins .bc s, pairReadOf_joins .de s, pairReadOf_joins .hl s⟩

/-- What a pair write stores in the second register: only AF masks its low byte (R29). -/
theorem pairWriteLow_eq (p : Pair) (v : Word) :
    pairWriteLow p v = if p = .af then lowByte v &&& 0xF0#8 else lowByte v := by
  cases p <;> rfl

theorem pairWrite_get_pairHigh (p : Pair) (v : Word) (s : State) :
    (pairWrite p v s).rf.get (pairHigh p) = highByte v := by
  rw [pairWrite_get, if_pos rfl]

theorem pairWrite_get_pairLow (p : Pair) (v : Word) (s : State) :
    (pairWrite p v s).rf.get (pairLow p) = if p = .af then lowByte v &&& 0xF0#8 else lowByte v := by
  rw [pairWrite_get, if_neg (pairHigh_ne_pairLow p).symm, if_pos rfl, pairWriteLow_eq]

/-- Masking the low byte with 0xF0 is masking the word with 0xFFF0 (R134). -/
theorem joinBytes_high_maskedLow (v : Word) :
    joinBytes (highByte v) (lowByte v &&& 0xF0#8) = v &&& 0xFFF0#16 := by
  have hhigh : highByte (v &&& 0xFFF0#16) = highByte v :=
    BitVec.extractLsb'_and.trans BitVec.and_allOnes
  have hlow : lowByte (v &&& 0xFFF0#16) = lowByte v &&& 0xF0#8 := BitVec.extractLsb'_and
  rw [← hhigh, ← hlow, joinBytes_high_low]

/-- The pair after a write of it. -/
theorem pairWrite_getPair (p : Pair) (v : Word) (s : State) :
    (pairWrite p v s).rf.getPair p = if p = .af then v &&& 0xFFF0#16 else v := by
  rw [RegisterFile.getPair, pairWrite_get_pairHigh, pairWrite_get_pairLow]
  by_cases hp : p = .af
  · rw [if_pos hp, if_pos hp, joinBytes_high_maskedLow]
  · rw [if_neg hp, if_neg hp, joinBytes_high_low]

/-- No flag is a bit that the mask of F clears. -/
theorem flagOf_masked (x : Flag) (f : Byte) : flagOf x (f &&& 0xF0#8) = flagOf x f := by
  cases x <;> simp [flagOf, flagBit]

theorem flagOf_lowByte (x : Flag) (v : Word) : flagOf x (lowByte v) = v.getLsbD (flagBit x) := by
  simp [flagOf, lowByte, flagBit_lt x]

theorem flagOf_maskedLowByte (x : Flag) (v : Word) :
    flagOf x (lowByte v &&& 0xF0#8) = v.getLsbD (flagBit x) :=
  (flagOf_masked x _).trans (flagOf_lowByte x v)

/-- Settles O20: the masked low byte keeps the bits of the flags, and joined with A it is the masked word. -/
theorem pairWriteAFMasksTheFlagsByte : Obligations.PairWriteAFMasksTheFlagsByte := by
  intro s v
  refine ⟨decode_encode_pairWriteOf .af v, pairWrite .af v s, exec_pairWriteOf .af v s, rfl, ?_, ?_⟩
  · exact ⟨flagOf_maskedLowByte .z v, flagOf_maskedLowByte .n v, flagOf_maskedLowByte .h v,
      flagOf_maskedLowByte .c v⟩
  · rw [← joinBytes_high_maskedLow]
    exact exec_pairReadOf .af (pairWrite .af v s)

/-- PAIR_WRITE of a pair other than AF stores both halves unmasked. -/
theorem pairWriteOf_general {p : Pair} (hp : p ≠ .af) (s : State) (v : Word) :
    decode (encode (pairWriteOf p v)) = .ok (pairWriteOf p v) ∧
    exec (pairWriteOf p v) s =
      .next { s with rf := (s.rf.set (pairHigh p) (highByte v)).set (pairLow p) (lowByte v), response := none } := by
  refine ⟨decode_encode_pairWriteOf p v, ?_⟩
  rw [exec_pairWriteOf, ← pairWriteLow_general hp v]
  rfl

/-- Settles O21: the one rule of an unmasked pair write, for each of the three pairs. -/
theorem pairWriteStoresBothHalves : Obligations.PairWriteStoresBothHalves := fun s v =>
  ⟨pairWriteOf_general (p := .bc) (by decide) s v, pairWriteOf_general (p := .de) (by decide) s v,
    pairWriteOf_general (p := .hl) (by decide) s v⟩

/-- Settles O22: the registers after the write are the halves of the joined value, which are `hi` and `lo`. -/
theorem pairWriteThenRegisterReads : Obligations.PairWriteThenRegisterReads := by
  intro s p hi lo
  refine ⟨_, _, _, exec_pairWriteOf p (joinBytes hi lo) s, exec_regReadOf (pairHigh p) _,
    exec_regReadOf (pairLow p) _, congrArg (some <| zext16 ·) ?_, congrArg (some <| zext16 ·) ?_⟩
  · rw [pairWrite_get_pairHigh, highByte_joinBytes]
  · rw [pairWrite_get_pairLow, lowByte_joinBytes]

/-- Settles O23: the answer is the pair after the write; the two masks of AF join to 0xFFF0. -/
theorem pairWriteThenPairRead : Obligations.PairWriteThenPairRead := by
  intro s p v
  have hmask : (v &&& 0xFF00#16) ||| (v &&& 0x00F0#16) = v &&& 0xFFF0#16 :=
    BitVec.and_or_distrib_left.symm
  refine ⟨_, _, exec_pairWriteOf p v s, exec_pairReadOf p _, congrArg some ?_, hmask⟩
  rw [pairWrite_getPair, hmask]

end Sys2Proof.Proofs
end

section
/-! SUPPORT. The flag commands (42_flags.md): the read and the write of each flag is decoded from its request, the
read answers the flag's bit of F (R150 to R153), the write decides that bit and no other (R154 to R157), and the laws of
writes in a row (R158). -/

namespace Sys2Proof.Proofs

open Sys2Proof Sys2Proof.Machine Sys2Proof.Statements

theorem decode_encode_flagReadOf (x : Flag) : decode (encode (flagReadOf x)) = .ok (flagReadOf x) := by
  cases x <;> rfl

theorem encode_flagWriteOf (x : Flag) :
    ∃ cmd ∈ flagWriteCodes, ∀ b, encode (flagWriteOf x b) = dataRequest cmd (boolData b) := by
  cases x <;> exact ⟨_, by decide, fun _ => rfl⟩

theorem boolOperand_boolData (b : Bool) : boolOperand (boolData b) = b := by
  cases b <;> rfl

theorem decode_encode_flagWriteOf (x : Flag) (b : Bool) :
    decode (encode (flagWriteOf x b)) = .ok (flagWriteOf x b) := by
  have hwf : (encode (flagWriteOf x b)).wellFormed = true := by
    obtain ⟨cmd, hcmd, henc⟩ := encode_flagWriteOf x
    rw [henc]
    exact Laws.boolRequest_wellFormed hcmd b
  have hinstr : instrOf (encode (flagWriteOf x b)) = some (flagWriteOf x b) := by
    cases x <;> simp [flagWriteOf, encode, dataRequest, instrOf, boolOperand_boolData]
  exact decode_of_wellFormed hwf hinstr

/-- A boolean written with more than its one bit is refused, not truncated (R88). -/
theorem decode_boolRequest_wide {cmd : Byte} (hcmd : cmd ∈ flagWriteCodes) {w : Word}
    (hw : w.extractLsb' 1 15 ≠ 0#15) : decode (dataRequest cmd w) = .error .wdataWidth := by
  have hshape : shapeOf cmd = some .bool := by revert cmd; decide
  have hwide : 2 ≤ w.toNat := not_lt.mp ((extractLsb'_high_eq_zero_iff w (k := 1) (n := 15) rfl).not.mp hw)
  rw [decode_eq_error_iff]
  simp [firstFailed, dataRequest, hshape, Shape.usesAddr, Shape.wdataBits, hwide]

/-- The request of a flag write with another `wdata`, too wide for a boolean. -/
theorem decode_flagWriteOf_wide (x : Flag) (b : Bool) {w : Word} (hw : w.extractLsb' 1 15 ≠ 0#15) :
    decode { encode (flagWriteOf x b) with wdata := w } = .error .wdataWidth := by
  obtain ⟨cmd, hcmd, henc⟩ := encode_flagWriteOf x
  rw [henc]
  exact decode_boolRequest_wide hcmd hw

theorem exec_flagWriteOf (x : Flag) (b : Bool) (s : State) :
    exec (flagWriteOf x b) s = .next (flagWrite x b s) := by
  cases x <;> rfl

theorem flagWrite_f (x : Flag) (b : Bool) (s : State) : (flagWrite x b s).rf.f = withFlag x b s.rf.f := rfl

theorem flagSetMask_eq_twoPow (x : Flag) : flagSetMask x = BitVec.twoPow 8 (flagBit x) := by
  cases x <;> rfl

theorem flagClearMask_eq_not_twoPow (x : Flag) : flagClearMask x = ~~~BitVec.twoPow 8 (flagBit x) := by
  cases x <;> rfl

/-- A flag write decides exactly its own bit of F: the two masks are the flag's power of two and its complement. -/
theorem getLsbD_withFlag (x : Flag) (b : Bool) (f : Byte) (k : Nat) :
    (withFlag x b f).getLsbD k = if k = flagBit x then b else f.getLsbD k := by
  have hbit := flagBit_lt x
  cases b with
  | true =>
    simp only [withFlag, flagSetMask_eq_twoPow, if_true, BitVec.getLsbD_or, BitVec.getLsbD_twoPow]
    by_cases hk : k = flagBit x
    · simp [hk, hbit]
    · simp [hk, Ne.symm hk]
  | false =>
    simp only [withFlag, flagClearMask_eq_not_twoPow, Bool.false_eq_true, if_false, BitVec.getLsbD_and,
      BitVec.getLsbD_not, BitVec.getLsbD_twoPow]
    by_cases hk : k = flagBit x
    · simp [hk, hbit]
    · simpa [hk, Ne.symm hk] using BitVec.lt_of_getLsbD

/-- Writing the value a flag holds leaves F as it is. -/
theorem withFlag_eq_self {x : Flag} {b : Bool} {f : Byte} (h : flagOf x f = b) : withFlag x b f = f := by
  refine BitVec.eq_of_getLsbD_eq fun k _ => ?_
  rw [getLsbD_withFlag]
  split
  · next hk => rw [hk, ← h, flagOf]
  · rfl

/-- Writing a flag twice is writing it once: the second write finds the value it writes. -/
theorem flagWrite_flagWrite_same (x : Flag) (b : Bool) (s : State) :
    flagWrite x b (flagWrite x b s) = flagWrite x b s := by
  have hheld : flagOf x (withFlag x b s.rf.f) = b := by rw [flagOf_withFlag, if_pos rfl]
  have hf : withFlag x b (withFlag x b s.rf.f) = withFlag x b s.rf.f := withFlag_eq_self hheld
  simp only [flagWrite, State.respondNone, hf]

/-- FLAG_WRITE of a flag: its request, the refusal of a wide `wdata`, the next state and its bits of F. -/
theorem flagWriteOf_changes_its_bit (x : Flag) (s : State) (b : Bool) (w : Word) :
    decode (encode (flagWriteOf x b)) = .ok (flagWriteOf x b) ∧
    (w.extractLsb' 1 15 ≠ 0#15 →
      decode { encode (flagWriteOf x b) with wdata := w } = .error .wdataWidth) ∧
    ∃ t : State, exec (flagWriteOf x b) s = .next t ∧
      t = { s with rf := { s.rf with f := withFlag x b s.rf.f }, response := none } ∧
      (∀ k : Nat, t.rf.f.getLsbD k = if k = flagBit x then b else s.rf.f.getLsbD k) ∧
      (flagOf x s.rf.f = b → t.rf.f = s.rf.f) ∧
      exec (flagWriteOf x b) t = .next t := by
  refine ⟨decode_encode_flagWriteOf x b, decode_flagWriteOf_wide x b, flagWrite x b s, exec_flagWriteOf x b s, rfl,
    getLsbD_withFlag x b s.rf.f, withFlag_eq_self, ?_⟩
  rw [exec_flagWriteOf, flagWrite_flagWrite_same]

/-- Settles O26: the one rule of a flag write, for each of the four flags. -/
theorem flagWriteChangesItsBitOfF : Obligations.FlagWriteChangesItsBitOfF := fun s b w =>
  ⟨flagWriteOf_changes_its_bit .z s b w, flagWriteOf_changes_its_bit .n s b w,
    flagWriteOf_changes_its_bit .h s b w, flagWriteOf_changes_its_bit .c s b w⟩

/-- After two writes of one flag it has the later value and the other flags have theirs from before. -/
theorem flagOf_flagWrite_flagWrite (x y : Flag) (b c : Bool) (s : State) :
    flagOf y (flagWrite x c (flagWrite x b s)).rf.f = if y = x then c else flagOf y s.rf.f := by
  rw [flagWrite_f, flagWrite_f, flagOf_withFlag, flagOf_withFlag]
  split <;> rfl

/-- The chain of R158: each write adds the bit of its flag to F. -/
theorem flagWrite_chain_f {s : State} (hf : s.rf.f = 0x00#8) :
    ∃ t1 t2 t3 t4 : State,
      exec (.flagWriteC true) s = .next t1 ∧ exec (.flagWriteH true) t1 = .next t2 ∧
      exec (.flagWriteN true) t2 = .next t3 ∧ exec (.flagWriteZ true) t3 = .next t4 ∧
      t1.rf.f = 0x10#8 ∧ t2.rf.f = 0x30#8 ∧ t3.rf.f = 0x70#8 ∧ t4.rf.f = 0xF0#8 := by
  have hc : (flagWrite .c true s).rf.f = 0x10#8 := by rw [flagWrite_f, hf]; rfl
  have hh : (flagWrite .h true (flagWrite .c true s)).rf.f = 0x30#8 := by rw [flagWrite_f, hc]; rfl
  have hn : (flagWrite .n true (flagWrite .h true (flagWrite .c true s))).rf.f = 0x70#8 := by
    rw [flagWrite_f, hh]; rfl
  refine ⟨_, _, _, _, exec_flagWriteOf .c true s, exec_flagWriteOf .h true _, exec_flagWriteOf .n true _,
    exec_flagWriteOf .z true _, hc, hh, hn, ?_⟩
  rw [flagWrite_f, hn]; rfl

/-- Settles O27: the later of two writes decides the flag, and the chain of four writes. -/
theorem flagSetThenClearLeavesTheOthers : Obligations.FlagSetThenClearLeavesTheOthers := by
  refine ⟨fun s x => ?_, fun s => flagWrite_chain_f⟩
  have hflags := fun y => flagOf_flagWrite_flagWrite x y true false s
  refine ⟨_, _, _, exec_flagWriteOf x true s, exec_flagWriteOf x false _, exec_flagReadOf x _, ?_,
    fun y hy => (hflags y).trans (if_neg hy)⟩
  exact congrArg (some <| flagData ·) ((hflags x).trans (if_pos rfl))

/-- FLAG_READ of a flag: its request, what it answers, and what it answers at power-on. -/
theorem flagReadOf_answers (x : Flag) (s : State) :
    decode (encode (flagReadOf x)) = .ok (flagReadOf x) ∧
    exec (flagReadOf x) s = .next { s with response := some (flagData (flagOf x s.rf.f)) } ∧
    exec (flagReadOf x) State.reset = .next { State.reset with response := some 0x0000#16 } := by
  have hreset : flagOf x State.reset.rf.f = false := flagOf_reset x
  refine ⟨decode_encode_flagReadOf x, exec_flagReadOf x s, ?_⟩
  rw [exec_flagReadOf, hreset]
  rfl

/-- Settles O25: the one rule of a flag read, for each of the four flags. -/
theorem flagReadAnswersItsBitOfF : Obligations.FlagReadAnswersItsBitOfF := fun s =>
  ⟨flagReadOf_answers .z s, flagReadOf_answers .n s, flagReadOf_answers .h s, flagReadOf_answers .c s⟩

end Sys2Proof.Proofs
end

section
/-! SUPPORT. The memory commands (43_memory_ops.md): each is decoded from its request, and what a read answers (R170,
R172), which bytes a write or a load stores (R171, R173, R174) and a read after a write (R175). -/

namespace Sys2Proof.Proofs

open Sys2Proof Sys2Proof.Machine Sys2Proof.Statements

theorem decode_memReadByte (a : Word) : decode ⟨0x70#8, a, 0, []⟩ = .ok (.memReadByte a) :=
  decode_of_wellFormed (Laws.EncodesWellFormed.memReadByte a) rfl

theorem decode_memWriteByte (a : Word) (v : Byte) :
    decode ⟨0x71#8, a, v.setWidth 16, []⟩ = .ok (.memWriteByte a v) :=
  decode_of_wellFormed (Laws.EncodesWellFormed.memWriteByte a v)
    (congrArg (some <| Instr.memWriteByte a ·) (byteOperand_setWidth v))

/-- A memory byte written with more than its eight bits is refused, not truncated (R88). -/
theorem decode_memWriteByte_wide (a : Word) {w : Word} (hw : w.extractLsb' 8 8 ≠ 0#8) :
    decode ⟨0x71#8, a, w, []⟩ = .error .wdataWidth := by
  have hshape : shapeOf 0x71#8 = some .addrByte := rfl
  have hwide : 2 ^ 8 ≤ w.toNat := not_lt.mp ((extractLsb'_high_eq_zero_iff w (n := 8) rfl).not.mp hw)
  rw [decode_eq_error_iff]
  simpa [firstFailed, hshape, Shape.usesAddr, Shape.wdataBits] using hwide

theorem decode_memReadWord (a : Word) : decode ⟨0x72#8, a, 0, []⟩ = .ok (.memReadWord a) :=
  decode_of_wellFormed (Laws.EncodesWellFormed.memReadWord a) rfl

theorem decode_memWriteWord (a v : Word) : decode ⟨0x73#8, a, v, []⟩ = .ok (.memWriteWord a v) :=
  decode_of_wellFormed (Laws.EncodesWellFormed.memWriteWord a v) rfl

theorem decode_loadImage (data : List Byte) : decode ⟨0x74#8, 0, 0, data⟩ = .ok (.loadImage data) :=
  decode_of_wellFormed (Laws.EncodesWellFormed.loadImage data) rfl

theorem exec_memWriteByte (a : Word) (v : Byte) (s : State) :
    exec (.memWriteByte a v) s = .next (s.writeByte a v).respondNone := rfl

theorem exec_memWriteWord (a v : Word) (s : State) :
    exec (.memWriteWord a v) s = .next (s.writeWord a v).respondNone := rfl

theorem exec_loadImage (data : List Byte) (s : State) :
    exec (.loadImage data) s = .next { s with mem := s.mem.load data, response := none } := rfl

@[simp] theorem readByte_respondNone (s : State) (b : Word) : s.respondNone.readByte b = s.readByte b := rfl

theorem readByte_writeByte_same (s : State) (a : Word) (v : Byte) : (s.writeByte a v).readByte a = v := by
  rw [readByte_writeByte, if_pos rfl]

theorem readByte_writeByte_other (s : State) {a b : Word} (v : Byte) (h : b ≠ a) :
    (s.writeByte a v).readByte b = s.readByte b := by
  rw [readByte_writeByte, if_neg h.symm]

/-- The high byte is written second, and never over the low one: an address is not its own next one. -/
theorem readByte_writeWord_low (s : State) (a v : Word) : (s.writeWord a v).readByte a = lowByte v := by
  rw [readByte_writeWord, if_neg (nextAddr_ne a), if_pos rfl]

theorem readByte_writeWord_high (s : State) (a v : Word) :
    (s.writeWord a v).readByte (nextAddr a) = highByte v := by
  rw [readByte_writeWord, if_pos rfl]

theorem readByte_writeWord_other (s : State) {a b : Word} (v : Word) (ha : b ≠ a) (hnext : b ≠ nextAddr a) :
    (s.writeWord a v).readByte b = s.readByte b := by
  rw [readByte_writeWord, if_neg hnext.symm, if_neg ha.symm]

/-- The address after an address, modulo 65536 (R52). -/
theorem nextAddr_eq_ofNat (a : Word) : nextAddr a = BitVec.ofNat 16 ((a.toNat + 1) % 65536) := by
  rw [← toNat_nextAddr, BitVec.ofNat_toNat, BitVec.setWidth_eq]

theorem nextAddr_last : nextAddr 0xFFFF#16 = 0x0000#16 := rfl

/-- MEM_READ_WORD: the answer has the byte at the address as its low half and the next one as its high half. -/
theorem memReadWord_answers (a : Word) (s : State) :
    ∃ w : Word, exec (.memReadWord a) s = .next { s with response := some w } ∧
      w = joinBytes (s.readByte (nextAddr a)) (s.readByte a) ∧
      lowByte w = s.readByte a ∧ highByte w = s.readByte (nextAddr a) :=
  ⟨_, exec_memReadWord a s, rfl, lowByte_joinBytes _ _, highByte_joinBytes _ _⟩

/-- Settles O31: the byte write is a single store, and the refusal is by `wdata_width`. -/
theorem memWriteByteStoresOneByte : Obligations.MemWriteByteStoresOneByte := fun s a v _ =>
  ⟨decode_memWriteByte a v, decode_memWriteByte_wide a, _, exec_memWriteByte a v s,
    readByte_writeByte_same s a v, fun _ => readByte_writeByte_other s v, rfl, rfl, rfl, rfl⟩

/-- Settles O32: the halves of the answer are the two bytes, and the address after 0xFFFF is 0x0000. -/
theorem memReadWordAnswersLittleEndian : Obligations.MemReadWordAnswersLittleEndian := by
  intro s a
  rw [← nextAddr_eq_ofNat]
  obtain ⟨w, hexec, -, hlow, hhigh⟩ := memReadWord_answers 0xFFFF#16 s
  rw [nextAddr_last] at hhigh
  exact ⟨decode_memReadWord a, memReadWord_answers a s, w, hexec, hlow, hhigh⟩

/-- Settles O33: the two bytes of the store, at 0xFFFF as at every address. -/
theorem memWriteWordStoresTwoBytes : Obligations.MemWriteWordStoresTwoBytes := by
  refine ⟨nextAddr_eq_ofNat, fun s a v => ⟨decode_memWriteWord a v, ?_, ?_⟩⟩
  · exact ⟨_, exec_memWriteWord a v s, readByte_writeWord_low s a v, readByte_writeWord_high s a v,
      fun _ => readByte_writeWord_other s v, rfl, rfl, rfl, rfl⟩
  · refine ⟨_, exec_memWriteWord 0xFFFF#16 v s, readByte_writeWord_low s _ v, ?_⟩
    rw [← nextAddr_last]
    exact readByte_writeWord_high s _ v

/-- Settles O34: an address below the clamped length is in the image and in the load window; one that is not is past
the end of one of them. -/
theorem loadImageCopiesTheClampedStart : Obligations.LoadImageCopiesTheClampedStart := by
  intro s data
  refine ⟨decode_loadImage data, _, exec_loadImage data s, fun a ha => ?_, fun a ha => ?_, rfl, rfl, rfl, rfl⟩
  · obtain ⟨himage, hwindow⟩ := lt_min_iff.mp ha
    exact Memory.byteAt_load_inside s.mem himage hwindow
  · exact Memory.byteAt_load_outside s.mem (min_le_iff.mp ha)

/-- Settles O35: the byte read is the byte stored, and the word read joins the two halves stored. -/
theorem memoryWriteThenReadRoundTrips : Obligations.MemoryWriteThenReadRoundTrips := by
  refine ⟨fun s a v => ?_, fun s a v => ?_⟩
  · refine ⟨_, _, exec_memWriteByte a v s, exec_memReadByte a _, ?_, fun _ => readByte_writeByte_other s v⟩
    rw [readByte_respondNone, readByte_writeByte_same]
    rfl
  · refine ⟨_, _, exec_memWriteWord a v s, exec_memReadWord a _, ?_, fun _ => readByte_writeWord_other s v⟩
    rw [readByte_respondNone, readByte_respondNone, readByte_writeWord_low, readByte_writeWord_high,
      joinBytes_high_low]

/-- Settles O30: the answer does not touch the memory, so it is the answer of a second read, and every byte is 0x00
after reset. -/
theorem memReadByteAnswersTheByte : Obligations.MemReadByteAnswersTheByte := by
  intro s a
  refine ⟨decode_memReadByte a, ⟨_, exec_memReadByte a s, rfl, exec_memReadByte a _⟩, ?_⟩
  rw [exec_memReadByte, readByte_eq_zero (.inl rfl)]
  rfl

end Sys2Proof.Proofs
end

section
/-! SUPPORT. The reset commands (44_reset_commands.md): each is decoded from its request, and clears its own component
and the response (R190, R191). -/

namespace Sys2Proof.Proofs

open Sys2Proof Sys2Proof.Machine Sys2Proof.Statements

theorem decode_rfReset : decode ⟨0x01#8, 0, 0, []⟩ = .ok .rfReset :=
  decode_of_wellFormed Laws.EncodesWellFormed.rfReset rfl

theorem decode_memReset : decode ⟨0x02#8, 0, 0, []⟩ = .ok .memReset :=
  decode_of_wellFormed Laws.EncodesWellFormed.memReset rfl

theorem exec_rfReset (s : State) :
    exec .rfReset s = .next { s with rf := RegisterFile.reset, response := none } := rfl

theorem exec_memReset (s : State) : exec .memReset s = .next { s with mem := [], response := none } := rfl

/-- Settles O40: the next state has the registers of power-on, whose pair views and flags are zero, and the reset of
those is the same state. -/
theorem rfResetZeroesTheRegisterFile : Obligations.RfResetZeroesTheRegisterFile := fun s =>
  ⟨decode_rfReset, _, exec_rfReset s, rfl, getPair_reset, flagOf_reset, exec_rfReset _⟩

/-- Settles O41: the next state lists no cell, so every byte reads 0x00, and it has no cell to clear again. -/
theorem memResetClearsEveryByte : Obligations.MemResetClearsEveryByte := fun s =>
  ⟨decode_memReset, _, exec_memReset s, readByte_eq_zero (.inr ⟨s, exec_memReset s⟩), rfl, rfl, rfl, rfl,
    exec_memReset _⟩

end Sys2Proof.Proofs
end

section
/-! SUPPORT. The exception rules (60_exceptions.md): a command is a total function of its component, so it completes,
and a well-formed request is a command (R200). -/

namespace Sys2Proof.Proofs

open Sys2Proof Sys2Proof.Machine Sys2Proof.Statements

theorem ActsOnMemory.completes {op : State → Host.Outcome State Fault Refusal} (h : ActsOnMemory op) (s : State) :
    ∃ t : State, op s = .next t := by
  obtain ⟨nextMem, answer, hop⟩ := h
  exact ⟨_, hop s⟩

theorem ActsOnRegisters.completes {op : State → Host.Outcome State Fault Refusal} (h : ActsOnRegisters op)
    (s : State) : ∃ t : State, op s = .next t := by
  obtain ⟨nextRf, answer, hop⟩ := h
  exact ⟨_, hop s⟩

/-- A command acts on the memory or on the registers, and either way it answers a next state. -/
theorem exec_completes (i : Instr) (s : State) : ∃ t : State, exec i s = .next t := by
  cases h : isMemoryCommand i with
  | true => exact (exec_actsOnMemory h).completes s
  | false => exact (exec_actsOnRegisters h).completes s

theorem step_issue_of_decode_ok {r : Request} {i : Instr} (h : decode r = .ok i) (s : State) :
    step (s.issue r) = exec i s :=
  stepRunsTheDecodedInstruction (s.issue r) r s.requests i rfl h

theorem step_issue_completes {r : Request} (h : r.wellFormed = true) (s : State) :
    ∃ t : State, step (s.issue r) = .next t := by
  obtain ⟨i, hdec⟩ := (wellFormed_iff_decode_ok r).mp h
  rw [step_issue_of_decode_ok hdec]
  exact exec_completes i s

/-- Settles O44: a well-formed request is decoded to a command, every command completes, and `Fault` has no
constructor. -/
theorem everyCommandCompletes : Obligations.EveryCommandCompletes :=
  ⟨exec_completes, fun _ s h => step_issue_completes h s, fun fault => nomatch fault⟩

end Sys2Proof.Proofs
end

section
/-! SUPPORT. Reset (70_reset_and_hazards.md): power-on is the two reset commands, which clear disjoint components and so
commute (R230). -/

namespace Sys2Proof.Proofs

open Sys2Proof Sys2Proof.Machine Sys2Proof.Statements

/-- The state after both reset commands: the components of power-on, with the port and the refusal mark kept. -/
def bothResets (s : State) : State :=
  { State.reset with requests := s.requests, refusals := s.refusals }

@[simp] theorem rf_bothResets (s : State) : (bothResets s).rf = State.reset.rf := rfl

@[simp] theorem mem_bothResets (s : State) : (bothResets s).mem = State.reset.mem := rfl

/-- RF_RESET then MEM_RESET. -/
theorem exec_memReset_after_rfReset {s t : State} (h : exec .rfReset s = .next t) :
    exec .memReset t = .next (bothResets s) := by
  cases h
  exact exec_memReset _

/-- MEM_RESET then RF_RESET. -/
theorem exec_rfReset_after_memReset {s t : State} (h : exec .memReset s = .next t) :
    exec .rfReset t = .next (bothResets s) := by
  cases h
  exact exec_rfReset _

/-- Settles O43: both orders lead to `bothResets s`, which has the registers and the memory of power-on; power-on has the
reset registers and lists no cell. -/
theorem powerOnIsBothResetsInEitherOrder : Obligations.PowerOnIsBothResetsInEitherOrder := by
  refine ⟨fun s => ?_, rfl, get_reset, getPointer_reset, getPair_reset, readByte_eq_zero (.inl rfl)⟩
  obtain ⟨t, hrf⟩ := exec_completes .rfReset s
  obtain ⟨t', hmem⟩ := exec_completes .memReset s
  exact ⟨t, t', bothResets s, hrf, exec_memReset_after_rfReset hrf, hmem, exec_rfReset_after_memReset hmem,
    rf_bothResets s, mem_bothResets s⟩

end Sys2Proof.Proofs
end

section
/-! SUPPORT. The 43 commands as fifteen families (30_encoding.md R82): case analysis by family, and what every command
leaves of the ports. -/

namespace Sys2Proof.Proofs

open Sys2Proof Sys2Proof.Machine Sys2Proof.Statements

/-- Case analysis by family: the register, pointer, pair and flag commands by what they name, the memory commands and
the two resets one by one. -/
theorem instr_cases {motive : Instr → Prop}
    (rfReset : motive .rfReset) (memReset : motive .memReset)
    (regRead : ∀ r, motive (regReadOf r)) (pointerRead : ∀ p, motive (pointerReadOf p))
    (regWrite : ∀ r v, motive (regWriteOf r v)) (pointerWrite : ∀ p v, motive (pointerWriteOf p v))
    (pairRead : ∀ p, motive (pairReadOf p)) (pairWrite : ∀ p v, motive (pairWriteOf p v))
    (flagRead : ∀ x, motive (flagReadOf x)) (flagWrite : ∀ x b, motive (flagWriteOf x b))
    (memReadByte : ∀ a, motive (.memReadByte a)) (memWriteByte : ∀ a v, motive (.memWriteByte a v))
    (memReadWord : ∀ a, motive (.memReadWord a)) (memWriteWord : ∀ a v, motive (.memWriteWord a v))
    (loadImage : ∀ data, motive (.loadImage data)) (i : Instr) : motive i := by
  cases i with
  | rfReset => exact rfReset
  | memReset => exact memReset
  | regReadA => exact regRead .a
  | regReadB => exact regRead .b
  | regReadC => exact regRead .c
  | regReadD => exact regRead .d
  | regReadE => exact regRead .e
  | regReadF => exact regRead .f
  | regReadH => exact regRead .h
  | regReadL => exact regRead .l
  | regReadSP => exact pointerRead .sp
  | regReadPC => exact pointerRead .pc
  | regWriteA v => exact regWrite .a v
  | regWriteB v => exact regWrite .b v
  | regWriteC v => exact regWrite .c v
  | regWriteD v => exact regWrite .d v
  | regWriteE v => exact regWrite .e v
  | regWriteF v => exact regWrite .f v
  | regWriteH v => exact regWrite .h v
  | regWriteL v => exact regWrite .l v
  | regWriteSP v => exact pointerWrite .sp v
  | regWritePC v => exact pointerWrite .pc v
  | pairReadAF => exact pairRead .af
  | pairReadBC => exact pairRead .bc
  | pairReadDE => exact pairRead .de
  | pairReadHL => exact pairRead .hl
  | pairWriteAF v => exact pairWrite .af v
  | pairWriteBC v => exact pairWrite .bc v
  | pairWriteDE v => exact pairWrite .de v
  | pairWriteHL v => exact pairWrite .hl v
  | flagReadZ => exact flagRead .z
  | flagReadN => exact flagRead .n
  | flagReadH => exact flagRead .h
  | flagReadC => exact flagRead .c
  | flagWriteZ b => exact flagWrite .z b
  | flagWriteN b => exact flagWrite .n b
  | flagWriteH b => exact flagWrite .h b
  | flagWriteC b => exact flagWrite .c b
  | memReadByte a => exact memReadByte a
  | memWriteByte a v => exact memWriteByte a v
  | memReadWord a => exact memReadWord a
  | memWriteWord a v => exact memWriteWord a v
  | loadImage data => exact loadImage data

/-- No command touches the pending requests or the refusal mark: it acts on the memory or on the registers. -/
theorem exec_keeps_ports {i : Instr} {s t : State} (h : exec i s = .next t) :
    t.requests = s.requests ∧ t.refusals = s.refusals := by
  cases hi : isMemoryCommand i with
  | true =>
    obtain ⟨_, _, hexec⟩ := exec_actsOnMemory hi
    rw [hexec] at h
    cases h
    exact ⟨rfl, rfl⟩
  | false =>
    obtain ⟨_, _, hexec⟩ := exec_actsOnRegisters hi
    rw [hexec] at h
    cases h
    exact ⟨rfl, rfl⟩

/-- No command of the RegisterFile touches the memory (R2). -/
theorem exec_mem_of_registerCommand {i : Instr} (hi : isMemoryCommand i = false) {s t : State}
    (h : exec i s = .next t) : t.mem = s.mem :=
  ((componentsAreIndependent i s s t t h h).2 hi).1

end Sys2Proof.Proofs
end

section
/-! SUPPORT. The encoder and the decoder are inverse (30_encoding.md section 2): the request of an instruction decodes
to it, and a request that decodes is its own with no field left over. -/

namespace Sys2Proof.Proofs

open Sys2Proof Sys2Proof.Machine Sys2Proof.Statements

/-- Settles O2: family by family. -/
theorem decodeOfEncodeIsTheInstruction : Obligations.DecodeOfEncodeIsTheInstruction := by
  intro i
  cases i using instr_cases with
  | rfReset => exact decode_rfReset
  | memReset => exact decode_memReset
  | regRead r => exact decode_encode_regReadOf r
  | pointerRead p => exact decode_encode_pointerReadOf p
  | regWrite r v => exact decode_encode_regWriteOf r v
  | pointerWrite p v => exact decode_encode_pointerWriteOf p v
  | pairRead p => exact decode_encode_pairReadOf p
  | pairWrite p v => exact decode_encode_pairWriteOf p v
  | flagRead x => exact decode_encode_flagReadOf x
  | flagWrite x b => exact decode_encode_flagWriteOf x b
  | memReadByte a => exact decode_memReadByte a
  | memWriteByte a v => exact decode_memWriteByte a v
  | memReadWord a => exact decode_memReadWord a
  | memWriteWord a v => exact decode_memWriteWord a v
  | loadImage data => exact decode_loadImage data

/-- The `wdata` field that a command of the shape makes of a `wdata`: its operand read and written again (R83). -/
def operandField (sh : Shape) (w : Word) : Word :=
  match sh with
  | .byte | .addrByte => (byteOperand w).setWidth 16
  | .word | .addrWord => w
  | .bool => boolData (boolOperand w)
  | .bare | .addr | .image => 0

/-- The request with every bit cleared that a command of the shape does not use. -/
def clearUnused (sh : Shape) (r : Request) : Request :=
  { cmd := r.cmd
    addr := if sh.usesAddr then r.addr else 0
    wdata := operandField sh r.wdata
    image := if sh.usesImage then r.image else [] }

/-- The command the table R85 reads from a request is encoded as that request with its unused bits cleared. -/
theorem encode_of_instrOf {r : Request} {i : Instr} {sh : Shape} (hi : instrOf r = some i)
    (hsh : shapeOf r.cmd = some sh) : encode i = clearUnused sh r := by
  obtain ⟨cmd, addr, wdata, image⟩ := r
  have htable :
      (knownCodes.map fun k => (instrOf ⟨k, addr, wdata, image⟩).map encode) =
        knownCodes.map fun k => (shapeOf k).map fun sh => clearUnused sh ⟨k, addr, wdata, image⟩ := rfl
  have hknown : cmd ∈ knownCodes := (codeListsAgree_of_shapeOf hsh).1
  have hcmd := List.map_inj_left.mp htable cmd hknown
  simpa only [hi, show shapeOf cmd = some sh from hsh, Option.map_some, Option.some.injEq] using hcmd

/-- An operand field in which no bit above the operand is set is left as it is. -/
theorem operandField_eq_self {sh : Shape} {w : Word} (hw : w.toNat < 2 ^ sh.wdataBits) : operandField sh w = w := by
  cases sh with
  | bare | addr | image =>
    exact BitVec.eq_of_toNat_eq (Nat.lt_one_iff.mp hw).symm
  | byte | addrByte =>
    refine BitVec.eq_of_toNat_eq ?_
    have hlt : w.toNat < 256 := hw
    simp only [operandField, byteOperand, BitVec.toNat_setWidth, BitVec.extractLsb'_toNat, Nat.shiftRight_zero]
    omega
  | word | addrWord => rfl
  | bool =>
    have hcases : w = 0#16 ∨ w = 1#16 := by
      have hlt : w.toNat < 2 := hw
      obtain h | h : w.toNat = 0 ∨ w.toNat = 1 := by omega
      · exact .inl (BitVec.eq_of_toNat_eq h)
      · exact .inr (BitVec.eq_of_toNat_eq h)
    obtain rfl | rfl := hcases <;> rfl

/-- A request that fails no check has a shape, and no bit of it is unused and set (R88). -/
theorem clearUnused_eq_self_of_firstFailed {r : Request} (h : firstFailed r = none) :
    ∃ sh, shapeOf r.cmd = some sh ∧ clearUnused sh r = r := by
  unfold firstFailed at h
  split at h
  · cases h
  · next sh hsh =>
    refine ⟨sh, hsh, ?_⟩
    split_ifs at h with haddr hwdata hwide himage
    obtain ⟨cmd, addr, wdata, image⟩ := r
    rw [not_and_not_right] at haddr himage
    simp only [clearUnused, Request.mk.injEq, ite_eq_left_iff, Bool.not_eq_true, true_and]
    exact ⟨fun hu => (haddr hu).symm, operandField_eq_self (not_le.mp hwide), fun hu => (himage hu).symm⟩

/-- Decoding is the table R85 on a request that fails no check. -/
theorem decode_eq_ok_iff (r : Request) (i : Instr) :
    decode r = .ok i ↔ firstFailed r = none ∧ instrOf r = some i := by
  unfold decode
  cases firstFailed r <;> cases instrOf r <;> simp

/-- Settles O3: the request is its own with the unused bits cleared, and that is what the encoder writes. -/
theorem decodedRequestIsTheEncodingOfItsInstruction : Obligations.DecodedRequestIsTheEncodingOfItsInstruction := by
  intro r i hdec
  obtain ⟨hff, hinstr⟩ := (decode_eq_ok_iff r i).mp hdec
  obtain ⟨sh, hsh, hclear⟩ := clearUnused_eq_self_of_firstFailed hff
  rw [encode_of_instrOf hinstr hsh, hclear]

/-- Settles O1: each request is the encoding of its command. -/
theorem specWordsDecodeToTheirCommands : Obligations.SpecWordsDecodeToTheirCommands := by
  have henc := decodeOfEncodeIsTheInstruction
  exact ⟨henc .rfReset, henc .regReadF, henc (.regWriteB 0x7F#8), henc (.regWriteSP 0xFFFE#16), henc .pairReadHL,
    henc (.pairWriteAF 0x12FF#16), henc .flagReadH, henc (.flagWriteC true),
    henc (.memWriteWord 0x1000#16 0xBEEF#16), henc (.loadImage [0xAA#8, 0xBB#8, 0xCC#8])⟩

end Sys2Proof.Proofs
end

section
/-! SUPPORT. What every step keeps (10_state.md R23, R33): a zero low nibble of F and the canonical memory; and the
uniqueness of the canonical form. -/

namespace Sys2Proof.Proofs

open Sys2Proof Sys2Proof.Machine Sys2Proof.Statements

/-- A predicate on registers and memory that every command keeps is kept by every step: a refusal and an idle step
change neither. -/
theorem step_keeps_of_exec_keeps {P : RegisterFile → Memory → Prop}
    (hexec : ∀ (i : Instr) (s t : State), P s.rf s.mem → exec i s = .next t → P t.rf t.mem)
    {s t : State} (hs : P s.rf s.mem) (hstep : step s = .next t) : P t.rf t.mem := by
  obtain ⟨-, h⟩ | ⟨r, rest, i, -, -, h⟩ | ⟨r, rest, c, -, -, h⟩ := step_cases s
  · rw [h] at hstep
    cases hstep
    exact hs
  · rw [h] at hstep
    exact hexec i { s with requests := rest } t hs hstep
  · rw [h] at hstep
    cases hstep
    exact hs

/-- Every write of F is masked, and a flag write keeps the low nibble. -/
theorem exec_keeps_flagNibbleZero {i : Instr} {s t : State} (hs : s.flagNibbleZero) (h : exec i s = .next t) :
    t.flagNibbleZero := by
  cases i using instr_cases with
  | rfReset => cases h; rfl
  | regRead r => rw [exec_regReadOf] at h; cases h; exact hs
  | pointerRead p => rw [exec_pointerReadOf] at h; cases h; exact hs
  | pairRead p => rw [exec_pairReadOf] at h; cases h; exact hs
  | flagRead x => rw [exec_flagReadOf] at h; cases h; exact hs
  | regWrite r v =>
    rw [exec_regWriteOf] at h
    cases h
    cases r with
    | f => exact masked_lowNibble v
    | _ => exact hs
  | pointerWrite p v => rw [exec_pointerWriteOf] at h; cases h; cases p <;> exact hs
  | pairWrite p v =>
    rw [exec_pairWriteOf] at h
    cases h
    cases p with
    | af => exact masked_lowNibble (lowByte v)
    | _ => exact hs
  | flagWrite x b =>
    rw [exec_flagWriteOf] at h
    cases h
    exact (withFlag_lowNibble x b s.rf.f).trans hs
  | memReset | memReadByte | memWriteByte | memReadWord | memWriteWord | loadImage => cases h; exact hs

/-- Settles O45: every command keeps the low nibble of F zero. -/
theorem lowNibbleOfFStaysZero : Obligations.LowNibbleOfFStaysZero := fun _ _ hs hstep =>
  step_keeps_of_exec_keeps (P := fun rf _ => rf.f.extractLsb' 0 4 = 0#4)
    (fun _ _ _ => exec_keeps_flagNibbleZero) hs hstep

/-- The memory commands write inside the array and list no unlisted byte; no other command touches the memory. -/
theorem exec_keeps_wf {i : Instr} {s t : State} (hs : s.mem.wf) (h : exec i s = .next t) : t.mem.wf := by
  cases hi : isMemoryCommand i with
  | false => rw [exec_mem_of_registerCommand hi h]; exact hs
  | true =>
    cases i with
    | memReset => cases h; exact Memory.wf_nil
    | memReadByte a | memReadWord a => cases h; exact hs
    | memWriteByte a v => cases h; exact wf_writeByte hs a v
    | memWriteWord a v => cases h; exact wf_writeWord hs a v
    | loadImage data => cases h; exact Memory.wf_load hs data
    | _ => cases hi

/-- Settles O46: every command keeps the canonical form. -/
theorem memoryStaysInCanonicalForm : Obligations.MemoryStaysInCanonicalForm := fun _ _ hs hstep =>
  step_keeps_of_exec_keeps (P := fun _ m => m.wf) (fun _ _ _ => exec_keeps_wf) hs hstep

/-- Settles O47: F is zero and no cell is listed. -/
theorem powerOnStateMeetsTheInvariant : Obligations.PowerOnStateMeetsTheInvariant :=
  ⟨rfl, wf_reset⟩

/-- The cells of a canonical memory are exactly its bytes that are not the unlisted one. -/
theorem mem_iff_byteAt {m : Memory} (hm : m.wf) (x : Host.Cell) :
    x ∈ m ↔ m.byteAt x.1 = x.2 ∧ x.2 ≠ Config.unlistedByte := by
  obtain ⟨hsorted, hcells⟩ := hm
  refine ⟨fun hx => ⟨Memory.byteAt_of_mem hsorted hx, (hcells x hx).2⟩, fun ⟨hbyte, hlisted⟩ => ?_⟩
  obtain ⟨y, hy, haddr⟩ : ∃ y ∈ m, y.1 = x.1 := by
    by_contra hnone
    push Not at hnone
    exact hlisted (hbyte.symm.trans (Memory.byteAt_absent hnone))
  have hval : y.2 = x.2 := by rw [← Memory.byteAt_of_mem hsorted hy, haddr, hbyte]
  rwa [← Prod.ext haddr hval]

/-- A byte outside the array reads as unlisted in a canonical memory. -/
theorem byteAt_of_memSize_le {m : Memory} (hm : m.wf) {n : Nat} (hn : Config.memSize ≤ n) :
    m.byteAt n = Config.unlistedByte :=
  Memory.byteAt_absent fun x hx heq => absurd (hm.2 x hx).1 (by omega)

/-- Settles O48: the bytes decide which cells are listed, and a strictly rising list is decided by its cells. -/
theorem canonicalMemoriesWithEqualBytesAreEqual : Obligations.CanonicalMemoriesWithEqualBytesAreEqual := by
  intro m k hm hk heq
  have hbyte : ∀ n, m.byteAt n = k.byteAt n := fun n => by
    by_cases hn : n < Config.memSize
    · simpa [Nat.mod_eq_of_lt (show n < 65536 from hn)] using heq (BitVec.ofNat 16 n)
    · rw [byteAt_of_memSize_le hm (not_lt.mp hn), byteAt_of_memSize_le hk (not_lt.mp hn)]
  have hirrefl : Std.Irrefl fun x y : Host.Cell => x.1 < y.1 := ⟨fun x => lt_irrefl x.1⟩
  have hasymm : Std.Antisymm fun x y : Host.Cell => x.1 < y.1 := ⟨fun _ _ h1 h2 => absurd h1 (lt_asymm h2)⟩
  refine hm.1.eq_of_mem_iff hk.1 fun x => ?_
  rw [mem_iff_byteAt hm, mem_iff_byteAt hk, hbyte]

end Sys2Proof.Proofs
end

section
/-! SUPPORT. Refusal (60_exceptions.md R87, R202, R204) and the request port: which check is the reason, which command
bytes are reserved, and that the mark only grows. -/

namespace Sys2Proof.Proofs

open Sys2Proof Sys2Proof.Machine Sys2Proof.Statements

/-- Settles O5: the decoder's check is the first failing one. -/
theorem refusalReasonIsTheFirstFailingCheck : Obligations.RefusalReasonIsTheFirstFailingCheck := by
  intro r c
  rw [decode_eq_error_iff, firstFailed_eq_find?, Check.inOrder]

/-- The reserved classes and selectors of R87 are exactly the bytes outside the 43 codes. -/
theorem not_mem_knownCodes_iff (cmd : Byte) : cmd ∉ knownCodes ↔ ReservedByte cmd := by
  unfold ReservedByte
  revert cmd
  decide

theorem decode_of_unknown {r : Request} (h : r.cmd ∉ knownCodes) : decode r = .error .cmdKnown := by
  rw [decode_eq_error_iff, firstFailed, (shapeOf_eq_none_iff r.cmd).mpr h]

/-- A step takes no reason out of the mark: only a refusal writes it, and adds one. -/
theorem step_keeps_refusals {s t : State} (hstep : step s = .next t) {c : Check} (hc : c ∈ s.refusals) :
    c ∈ t.refusals := by
  obtain ⟨-, h⟩ | ⟨r, rest, i, -, -, h⟩ | ⟨r, rest, k, -, -, h⟩ := step_cases s
  · rw [h] at hstep
    cases hstep
    exact hc
  · rw [h] at hstep
    rw [(exec_keeps_ports hstep).2]
    exact hc
  · rw [h] at hstep
    cases hstep
    exact List.mem_append_left _ hc

/-- Settles O6: the reserved bytes have no shape, so the first check refuses them. -/
theorem reservedCommandBytesAreRefused : Obligations.ReservedCommandBytesAreRefused := by
  refine ⟨not_mem_knownCodes_iff, fun r s hr => ?_, fun s t hstep c => step_keeps_refusals hstep⟩
  have hdec := decode_of_unknown ((not_mem_knownCodes_iff r.cmd).mpr hr)
  exact ⟨hdec, s.refuse .cmdKnown, step_issue_of_decode_error hdec s, rfl, rfl, rfl, rfl, by simp⟩

/-- Settles O7: the refused request leaves the port as it was before it, with the next request the oldest. -/
theorem refusedRequestRecordsItsReasonAndTheRunGoesOn :
    Obligations.RefusedRequestRecordsItsReasonAndTheRunGoesOn := fun s _ q _ i hr hq =>
  ⟨step_issue_of_decode_error hr (s.issue q), stepRunsTheDecodedInstruction _ q s.requests i rfl hq⟩

theorem decode_of_decodeTableWord {nbits w : Nat} {i : Instr} (h : decodeTableWord nbits w = some i) :
    decode (tableRequest nbits w) = .ok i := by
  unfold decodeTableWord at h
  split at h
  · next hdec => cases h; exact hdec
  · cases h

/-- Settles O9: the table word is placed as a request that decodes to the instruction. -/
theorem stepAfterTableWordRunsItsInstruction : Obligations.StepAfterTableWordRunsItsInstruction :=
  fun s _ _ _ h => step_issue_of_decode_ok (decode_of_decodeTableWord h) s

/-- Settles O10: with no request to take, the step is the idle one. -/
theorem stepWithNoRequestChangesNothing : Obligations.StepWithNoRequestChangesNothing := by
  intro s h
  rw [step, State.takeRequest_nil h, State.idle]

end Sys2Proof.Proofs
end

section
/-! SUPPORT. What each command stores in the registers, by the access table (10_state.md R38), and the laws of the
register, pair and flag families. -/

namespace Sys2Proof.Proofs

open Sys2Proof Sys2Proof.Machine Sys2Proof.Statements

theorem registerStored_regWriteOf (r q : Reg8) (v f : Byte) :
    registerStored (regWriteOf r v) q f = if q = r then some (regWriteByte r v) else none := by
  cases r <;> rfl

theorem registerStored_pairWriteOf (p : Pair) (q : Reg8) (v : Word) (f : Byte) :
    registerStored (pairWriteOf p v) q f =
      if q = pairHigh p then some (highByte v) else if q = pairLow p then some (pairWriteLow p v) else none := by
  cases p <;> rfl

theorem registerStored_flagWriteOf (x : Flag) (b : Bool) (q : Reg8) (f : Byte) :
    registerStored (flagWriteOf x b) q f = if q = .f then some (withFlag x b f) else none := by
  cases x <;> rfl

theorem registerStored_pointerWriteOf (p : Pointer) (v : Word) (q : Reg8) (f : Byte) :
    registerStored (pointerWriteOf p v) q f = none := by
  cases p <;> rfl

theorem isRead_regReadOf (r : Reg8) : isRead (regReadOf r) = true := by cases r <;> rfl

theorem isRead_pointerReadOf (p : Pointer) : isRead (pointerReadOf p) = true := by cases p <;> rfl

theorem isRead_pairReadOf (p : Pair) : isRead (pairReadOf p) = true := by cases p <;> rfl

theorem isRead_flagReadOf (x : Flag) : isRead (flagReadOf x) = true := by cases x <;> rfl

theorem isRead_regWriteOf (r : Reg8) (v : Byte) : isRead (regWriteOf r v) = false := by cases r <;> rfl

theorem isRead_pointerWriteOf (p : Pointer) (v : Word) : isRead (pointerWriteOf p v) = false := by cases p <;> rfl

theorem isRead_pairWriteOf (p : Pair) (v : Word) : isRead (pairWriteOf p v) = false := by cases p <;> rfl

theorem isRead_flagWriteOf (x : Flag) (b : Bool) : isRead (flagWriteOf x b) = false := by cases x <;> rfl

/-- A read answers a value, changes nothing else, and answers the same from the state it leaves. -/
theorem exec_read {i : Instr} (hi : isRead i = true) {s t : State} (h : exec i s = .next t) :
    (∃ v : Word, t = { s with response := some v }) ∧ exec i t = .next t := by
  cases i using instr_cases with
  | regRead r => rw [exec_regReadOf] at h; cases h; exact ⟨⟨_, rfl⟩, exec_regReadOf r _⟩
  | pointerRead p => rw [exec_pointerReadOf] at h; cases h; exact ⟨⟨_, rfl⟩, exec_pointerReadOf p _⟩
  | pairRead p => rw [exec_pairReadOf] at h; cases h; exact ⟨⟨_, rfl⟩, exec_pairReadOf p _⟩
  | flagRead x => rw [exec_flagReadOf] at h; cases h; exact ⟨⟨_, rfl⟩, exec_flagReadOf x _⟩
  | memReadByte a => cases h; exact ⟨⟨_, rfl⟩, exec_memReadByte a _⟩
  | memReadWord a => cases h; exact ⟨⟨_, rfl⟩, exec_memReadWord a _⟩
  | regWrite r v => rw [isRead_regWriteOf] at hi; cases hi
  | pointerWrite p v => rw [isRead_pointerWriteOf] at hi; cases hi
  | pairWrite p v => rw [isRead_pairWriteOf] at hi; cases hi
  | flagWrite x b => rw [isRead_flagWriteOf] at hi; cases hi
  | rfReset | memReset | memWriteByte | memWriteWord | loadImage => cases hi

theorem exec_response_of_not_read {i : Instr} (hi : isRead i = false) {s t : State} (h : exec i s = .next t) :
    t.response = none := by
  cases i using instr_cases with
  | regRead r => rw [isRead_regReadOf] at hi; cases hi
  | pointerRead p => rw [isRead_pointerReadOf] at hi; cases hi
  | pairRead p => rw [isRead_pairReadOf] at hi; cases hi
  | flagRead x => rw [isRead_flagReadOf] at hi; cases hi
  | memReadByte | memReadWord => cases hi
  | regWrite r v => rw [exec_regWriteOf] at h; cases h; rfl
  | pointerWrite p v => rw [exec_pointerWriteOf] at h; cases h; rfl
  | pairWrite p v => rw [exec_pairWriteOf] at h; cases h; rfl
  | flagWrite x b => rw [exec_flagWriteOf] at h; cases h; rfl
  | rfReset | memReset | memWriteByte | memWriteWord | loadImage => cases h; rfl

/-- Settles O39: family by family, a read keeps the state its answer is computed from. -/
theorem readsChangeOnlyTheResponse : Obligations.ReadsChangeOnlyTheResponse := fun _ _ _ h =>
  ⟨fun hi => exec_read hi h, fun hi => exec_response_of_not_read hi h⟩

/-- Every 8-bit register after any command: what the command stores there, or what it held. -/
theorem exec_get {i : Instr} {s t : State} (h : exec i s = .next t) (q : Reg8) :
    t.rf.get q = (registerStored i q s.rf.f).getD (s.rf.get q) := by
  cases i using instr_cases with
  | regRead r => rw [exec_regReadOf] at h; cases h; cases r <;> rfl
  | pointerRead p => rw [exec_pointerReadOf] at h; cases h; cases p <;> rfl
  | pairRead p => rw [exec_pairReadOf] at h; cases h; cases p <;> rfl
  | flagRead x => rw [exec_flagReadOf] at h; cases h; cases x <;> rfl
  | memReset | memReadByte | memReadWord | memWriteByte | memWriteWord | loadImage => cases h; rfl
  | rfReset => cases h; exact get_reset q
  | regWrite r v =>
    rw [exec_regWriteOf] at h
    cases h
    rw [registerStored_regWriteOf, apply_ite (Option.getD · _)]
    exact regWrite_get r q v s
  | pointerWrite p v =>
    rw [exec_pointerWriteOf] at h
    cases h
    rw [registerStored_pointerWriteOf]
    exact pointerWrite_get p v s q
  | pairWrite p v =>
    rw [exec_pairWriteOf] at h
    cases h
    rw [registerStored_pairWriteOf, apply_ite (Option.getD · _), apply_ite (Option.getD · _)]
    exact pairWrite_get p v s q
  | flagWrite x b =>
    rw [exec_flagWriteOf] at h
    cases h
    rw [registerStored_flagWriteOf, apply_ite (Option.getD · _)]
    exact flagWrite_get x b s q

/-- Settles O51: the access table for the registers, and the ports that no command touches. -/
theorem registersChangeOnlyAsTheAccessTableSays : Obligations.RegistersChangeOnlyAsTheAccessTableSays :=
  fun _ _ _ h => ⟨exec_get h, exec_keeps_ports h⟩

/-- The four flags of the masked byte are the bits 7 to 4 of the byte. -/
theorem flagOf_regWriteByte_f (x : Flag) (v : Byte) : flagOf x (regWriteByte .f v) = v.getLsbD (flagBit x) :=
  flagOf_masked x v

/-- Settles O15: the write of F is a register write whose byte is masked, and the mask keeps the flags. -/
theorem regWriteFStoresTheMaskedByte : Obligations.RegWriteFStoresTheMaskedByte := fun s v _ =>
  ⟨decode_encode_regWriteOf .f v, exec_regWriteOf .f v s,
    ⟨flagOf_regWriteByte_f .z v, flagOf_regWriteByte_f .n v, flagOf_regWriteByte_f .h v, flagOf_regWriteByte_f .c v⟩,
    masked_lowNibble v, decode_regWriteOf_wide .f v⟩

theorem regWriteByte_eq (r : Reg8) (v : Byte) : regWriteByte r v = if r = .f then v &&& 0xF0#8 else v := by
  cases r <;> rfl

/-- Settles O17: what a register or pointer write stores is what the read answers, and the rest of the registers and
the memory are those before. -/
theorem registerWriteThenReadRoundTrips : Obligations.RegisterWriteThenReadRoundTrips := by
  refine ⟨fun s r v => ?_, fun s p v => ?_⟩
  · refine ⟨regWrite r v s, _, exec_regWriteOf r v s, exec_regReadOf r _, ?_, fun q hq => ?_,
      regWrite_getPointer r v s, fun _ => rfl⟩
    · rw [regWrite_get, if_pos rfl, regWriteByte_eq]
      rfl
    · rw [regWrite_get, if_neg hq]
  · refine ⟨pointerWrite p v s, _, exec_pointerWriteOf p v s, exec_pointerReadOf p _, ?_, pointerWrite_get p v s,
      fun q hq => ?_, fun _ => rfl⟩
    · rw [pointerWrite_getPointer, if_pos rfl]
    · rw [pointerWrite_getPointer, if_neg hq]

/-- Settles O24: the two registers are the pair's own, and F is one of them for AF alone. -/
theorem pairWriteLeavesEverythingElse : Obligations.PairWriteLeavesEverythingElse := by
  intro s t p v h
  rw [exec_pairWriteOf] at h
  cases h
  have hother : ∀ q : Reg8, q ≠ pairHigh p → q ≠ pairLow p → (pairWrite p v s).rf.get q = s.rf.get q :=
    fun q hhigh hlow => by rw [pairWrite_get, if_neg hhigh, if_neg hlow]
  refine ⟨hother, pairWrite_getPointer p v s, fun _ => rfl, rfl, rfl, fun hp x => ?_⟩
  have hlow : .f ≠ pairLow p := by
    cases p with
    | af => exact absurd rfl hp
    | bc | de | hl => decide
  have hf : (pairWrite p v s).rf.f = s.rf.f := hother .f (by cases p <;> decide) hlow
  rw [hf]

theorem flagBit_injective : Function.Injective flagBit := by
  intro x y
  cases x <;> cases y <;> simp [flagBit]

/-- Writes of two flags decide different bits of F, so they commute. -/
theorem withFlag_comm {x y : Flag} (h : x ≠ y) (b c : Bool) (f : Byte) :
    withFlag y c (withFlag x b f) = withFlag x b (withFlag y c f) := by
  refine BitVec.eq_of_getLsbD_eq fun k _ => ?_
  simp only [getLsbD_withFlag]
  by_cases hx : k = flagBit x
  · have hy : k ≠ flagBit y := fun hy => h (flagBit_injective (hx.symm.trans hy))
    rw [if_neg hy, if_pos hx, if_pos hx]
  · rw [if_neg hx, if_neg hx]

/-- Of two writes of one flag the later one decides its bit. -/
theorem withFlag_withFlag_same (x : Flag) (b c : Bool) (f : Byte) :
    withFlag x c (withFlag x b f) = withFlag x c f := by
  refine BitVec.eq_of_getLsbD_eq fun k _ => ?_
  simp only [getLsbD_withFlag]
  split <;> rfl

theorem flagWrite_comm {x y : Flag} (h : x ≠ y) (b c : Bool) (s : State) :
    flagWrite y c (flagWrite x b s) = flagWrite x b (flagWrite y c s) := by
  simp only [flagWrite, State.respondNone, withFlag_comm h b c s.rf.f]

theorem flagWrite_last_wins (x : Flag) (b c : Bool) (s : State) :
    flagWrite x c (flagWrite x b s) = flagWrite x c s := by
  simp only [flagWrite, State.respondNone, withFlag_withFlag_same]

/-- Settles O28: all three reads answer the flag's bit of F, and each write decides that bit alone. -/
theorem flagViewsAgreeAndWritesCommute : Obligations.FlagViewsAgreeAndWritesCommute := by
  refine ⟨fun s x => ?_, fun s x y b c => ?_⟩
  · have hf := getLsbD_zext16_flagBit x s.rf.f
    have haf := getLsbD_joinBytes_flagBit s.rf.a s.rf.f x
    refine ⟨_, _, exec_regReadOf .f s, exec_pairReadOf .af s, hf.trans haf.symm, ?_⟩
    rw [exec_flagReadOf, RegisterFile.get_f, hf, flagData]
  · refine ⟨_, _, _, exec_flagWriteOf x b s, exec_flagWriteOf y c _, exec_flagWriteOf y c s, fun hne => ?_, ?_⟩
    · rw [exec_flagWriteOf, flagWrite_comm hne]
    · rintro rfl
      exact flagWrite_last_wins x b c s

/-- The commands that store into F: RF_RESET, the writes of F and AF, and the flag writes. -/
theorem registerStored_f_eq_none {i : Instr} (hf : ∀ v, i ≠ .regWriteF v) (haf : ∀ v, i ≠ .pairWriteAF v)
    (hreset : i ≠ .rfReset) (hflag : ∀ x b, i ≠ flagWriteOf x b) (f : Byte) : registerStored i .f f = none := by
  cases i with
  | rfReset => exact absurd rfl hreset
  | regWriteF v => exact absurd rfl (hf v)
  | pairWriteAF v => exact absurd rfl (haf v)
  | flagWriteZ b => exact absurd rfl (hflag .z b)
  | flagWriteN b => exact absurd rfl (hflag .n b)
  | flagWriteH b => exact absurd rfl (hflag .h b)
  | flagWriteC b => exact absurd rfl (hflag .c b)
  | _ => rfl

/-- Settles O29: beside the three commands only a flag write stores into F, and it changes its own flag. -/
theorem onlyThreeCommandsWriteSeveralFlags : Obligations.OnlyThreeCommandsWriteSeveralFlags := by
  intro i s t h hf haf hreset
  have hkeep : (∀ x b, i ≠ flagWriteOf x b) → t.rf.f = s.rf.f := fun hflag => by
    have hget := exec_get h .f
    rwa [registerStored_f_eq_none hf haf hreset hflag] at hget
  refine ⟨?_, hkeep⟩
  by_cases hflag : ∃ x b, i = flagWriteOf x b
  · obtain ⟨x, b, rfl⟩ := hflag
    rw [exec_flagWriteOf] at h
    cases h
    exact ⟨x, fun y hy => by rw [flagWrite_f, flagOf_withFlag, if_neg hy]⟩
  · push Not at hflag
    exact ⟨.z, fun y _ => by rw [hkeep hflag]⟩

end Sys2Proof.Proofs
end

section
/-! SUPPORT. What each command stores in the memory, by the access table (10_state.md R38): a byte after a command and
after a list of them, two loads in a row, and a pair stored as a word. -/

namespace Sys2Proof.Proofs

open Sys2Proof Sys2Proof.Machine Sys2Proof.Statements

theorem byteStored_of_registerCommand {i : Instr} (h : isMemoryCommand i = false) (a : Word) :
    byteStored i a = none := by
  cases i with
  | memReset | memReadByte | memWriteByte | memReadWord | memWriteWord | loadImage => cases h
  | _ => rfl

/-- A load stores the bytes of the clamped image (R174). -/
theorem byteStored_loadImage (data : List Byte) (a : Word) :
    byteStored (.loadImage data) a = (data.take 32768)[a.toNat]? := List.getElem?_take.symm

/-- Every byte after a load: the byte of the clamped image, or the one before. -/
theorem byteAt_load (m : Memory) (data : List Byte) (k : Nat) :
    (m.load data).byteAt k = ((data.take 32768)[k]?).getD (m.byteAt k) := by
  by_cases hwindow : k < 32768
  · rw [List.getElem?_take_of_lt hwindow]
    by_cases himage : k < data.length
    · rw [Memory.byteAt_load_inside m himage hwindow, Option.getD_some]
    · rw [List.getElem?_eq_none (not_lt.mp himage), Option.getD_none,
        Memory.byteAt_load_outside m (.inl (not_lt.mp himage))]
  · rw [List.getElem?_take_eq_none (not_lt.mp hwindow), Option.getD_none,
      Memory.byteAt_load_outside m (.inr (not_lt.mp hwindow))]

/-- Every byte after any command: what the command stores there, or what it was. -/
theorem exec_readByte {i : Instr} {s t : State} (h : exec i s = .next t) (a : Word) :
    t.readByte a = (byteStored i a).getD (s.readByte a) := by
  cases hi : isMemoryCommand i with
  | false =>
    rw [byteStored_of_registerCommand hi, State.readByte, exec_mem_of_registerCommand hi h]
    rfl
  | true =>
    cases i with
    | memReset | memReadByte | memReadWord => cases h; rfl
    | memWriteByte b v =>
      cases h
      rw [byteStored, apply_ite (Option.getD · _), readByte_respondNone, readByte_writeByte]
      simp only [eq_comm, Option.getD_some, Option.getD_none]
    | memWriteWord b v =>
      cases h
      rw [byteStored, apply_ite (Option.getD · _), apply_ite (Option.getD · _), readByte_respondNone,
        readByte_writeWord]
      simp only [eq_comm, Option.getD_some, Option.getD_none, highByte, lowByte]
    | loadImage data =>
      cases h
      rw [byteStored_loadImage]
      exact byteAt_load s.mem data a.toNat
    | _ => cases hi

/-- Settles O50: by what each command stores. -/
theorem memoryChangesOnlyWhereACommandStores : Obligations.MemoryChangesOnlyWhereACommandStores :=
  fun _ _ _ a h => exec_readByte h a

/-- Every byte after a list of commands: the latest one stored there, or the one before them all. -/
theorem performAll_readByte (is : List Instr) (s : State) :
    ∃ t : State, performAll is s = some t ∧
      ∀ a : Word, t.readByte a = (is.reverse.findSome? fun i => byteStored i a).getD (s.readByte a) := by
  induction is generalizing s with
  | nil => exact ⟨s, rfl, fun _ => rfl⟩
  | cons i is ih =>
    obtain ⟨u, hexec⟩ := exec_completes i s
    obtain ⟨t, hperform, hbytes⟩ := ih u
    refine ⟨t, by rw [performAll, hexec]; exact hperform, fun a => ?_⟩
    rw [hbytes, exec_readByte hexec, List.reverse_cons, List.findSome?_append, List.findSome?_singleton,
      Option.getD_or]

/-- Settles O53: every byte is 0x00 at power-on, so the latest store or 0x00 is what a read answers. -/
theorem everyReadAnswersTheLatestWrite : Obligations.EveryReadAnswersTheLatestWrite := by
  intro is
  obtain ⟨t, hperform, hbytes⟩ := performAll_readByte is State.reset
  refine ⟨t, hperform, fun a => ?_⟩
  rw [exec_memReadByte, hbytes, readByte_eq_zero (.inl rfl), latestByte]
  rfl

/-- Settles O36: the second load stores below its own clamped length only, and the first below its own. -/
theorem secondLoadKeepsTheTailOfTheFirst : Obligations.SecondLoadKeepsTheTailOfTheFirst := by
  intro s d1 d2
  have hinside (m : Memory) (d : List Byte) (a : Word) (ha : a.toNat < min d.length 32768) :
      d[a.toNat]? = some ((m.load d).byteAt a.toNat) :=
    Memory.byteAt_load_inside m (lt_min_iff.mp ha).1 (lt_min_iff.mp ha).2
  have houtside (m : Memory) (d : List Byte) (a : Word) (ha : min d.length 32768 ≤ a.toNat) :
      (m.load d).byteAt a.toNat = m.byteAt a.toNat :=
    Memory.byteAt_load_outside m (min_le_iff.mp ha)
  have hboth (a : Word) (ha : max (min d1.length 32768) (min d2.length 32768) ≤ a.toNat) :
      ((s.mem.load d1).load d2).byteAt a.toNat = s.mem.byteAt a.toNat := by
    obtain ⟨h1, h2⟩ := max_le_iff.mp ha
    rw [houtside _ d2 a h2, houtside _ d1 a h1]
  refine ⟨_, _, exec_loadImage d1 s, exec_loadImage d2 _, hinside _ d2, fun a h2 h1 => ?_, hboth,
    fun a ha => hboth a (max_le (min_le_of_right_le ha) (min_le_of_right_le ha))⟩
  rw [hinside s.mem d1 a h1, ← houtside (s.mem.load d1) d2 a h2]
  rfl

/-- Settles O38: the word is the joined pair, its low half is stored first, and the high half of the word at `a` is the
same byte as the low half of the word at the next address. -/
theorem pairStoredAsAWordPutsTheSecondRegisterLower :
    Obligations.PairStoredAsAWordPutsTheSecondRegisterLower := by
  intro s p a
  refine ⟨s.rf.getPair p, _, _, exec_pairReadOf p s, rfl, exec_memWriteWord a _ _, ?_, ?_, _, _,
    exec_memReadWord a _, exec_memReadWord (nextAddr a) _, ?_⟩
  · rw [readByte_respondNone, readByte_writeWord_low, RegisterFile.getPair, lowByte_joinBytes]
  · rw [readByte_respondNone, readByte_writeWord_high, RegisterFile.getPair, highByte_joinBytes]
  · exact (highByte_joinBytes _ _).trans (lowByte_joinBytes _ _).symm

end Sys2Proof.Proofs
end

section
/-! SUPPORT. A run from power-on (70_reset_and_hazards.md): one request a step, and one reason for each refused one. -/

namespace Sys2Proof.Proofs

open Sys2Proof Sys2Proof.Machine Sys2Proof.Statements

/-- A step with a request pending takes it, and adds a reason to the mark exactly when it is not well-formed. -/
theorem step_takes_request {s : State} {r : Request} {rest : List Request} (hreq : s.requests = r :: rest) :
    ∃ t : State, step s = .next t ∧ t.requests = rest ∧
      t.refusals.length = s.refusals.length + if r.wellFormed then 0 else 1 := by
  obtain ⟨hnil, -⟩ | ⟨r', rest', i, hcons, hdec, hstep⟩ | ⟨r', rest', c, hcons, hdec, hstep⟩ := step_cases s
  · rw [hnil] at hreq
    cases hreq
  · obtain ⟨rfl, rfl⟩ := List.cons.inj (hreq.symm.trans hcons)
    obtain ⟨t, hexec⟩ := exec_completes i { s with requests := rest }
    obtain ⟨hrequests, hrefusals⟩ := exec_keeps_ports hexec
    have hwf : r.wellFormed = true := (wellFormed_iff_decode_ok r).mpr ⟨i, hdec⟩
    exact ⟨t, hstep.trans hexec, hrequests, by rw [hrefusals, hwf]; rfl⟩
  · obtain ⟨rfl, rfl⟩ := List.cons.inj (hreq.symm.trans hcons)
    have hill : ¬r.wellFormed = true := fun hwf => by
      obtain ⟨i, hok⟩ := (wellFormed_iff_decode_ok r).mp hwf
      rw [hok] at hdec
      cases hdec
    exact ⟨_, hstep, rfl, by rw [if_neg hill]; simp⟩

theorem step_keeps_inv {s t : State} (hs : s.Inv) (hstep : step s = .next t) : t.Inv :=
  ⟨lowNibbleOfFStaysZero s t hs.1 hstep, memoryStaysInCanonicalForm s t hs.2 hstep⟩

theorem run_succ (k : Nat) {s u : State} (hstep : step s = .next u) :
    Host.Core.run Sys2Proof.core (k + 1) s = Host.Core.run Sys2Proof.core k u := by
  have hcore : Sys2Proof.core.step s = .next u := hstep
  simp only [Host.Core.run, hcore]

/-- As many steps as there are requests perform them all, keep the invariant and count the ill-formed ones. -/
theorem run_performs_all (rs : List Request) {s : State} (hreq : s.requests = rs) (hs : s.Inv) :
    ∃ t : State, Host.Core.run Sys2Proof.core rs.length s = .next t ∧ t.requests = [] ∧ t.Inv ∧
      t.refusals.length = s.refusals.length + (rs.filter fun r => !r.wellFormed).length := by
  induction rs generalizing s with
  | nil => exact ⟨s, rfl, hreq, hs, rfl⟩
  | cons r rs ih =>
    obtain ⟨u, hstep, hrequests, hcount⟩ := step_takes_request hreq
    obtain ⟨t, hrun, hnil, ht, htotal⟩ := ih hrequests (step_keeps_inv hs hstep)
    refine ⟨t, (run_succ rs.length hstep).trans hrun, hnil, ht, ?_⟩
    rw [htotal, hcount, List.filter_cons]
    cases r.wellFormed with
    | true => simp
    | false => simp; omega

/-- Settles O54: power-on meets the invariant with any requests pending, and its mark is empty. -/
theorem everyRunFromPowerOnPerformsAllItsRequests : Obligations.EveryRunFromPowerOnPerformsAllItsRequests := by
  intro rs
  obtain ⟨t, hrun, hnil, ⟨hnibble, hwf⟩, hcount⟩ :=
    run_performs_all rs (s := { State.reset with requests := rs }) rfl powerOnStateMeetsTheInvariant
  exact ⟨t, hrun, hnil, hnibble, hwf, hcount.trans (Nat.zero_add _)⟩

end Sys2Proof.Proofs
end

section
/-! SUPPORT. The byte events of a split command (20_memory.md R69): what a sequence of byte writes leaves in the memory
whatever its order, and what a sequence of byte reads sees; the loop of LOAD_IMAGE (R174) is one such sequence. -/

namespace Sys2Proof.Proofs

open Sys2Proof Sys2Proof.Machine Sys2Proof.Statements

theorem applyAll_eq_foldl (es : List Event) (s : State) : applyAll es s = es.foldl (fun u e => e.apply u) s := by
  induction es generalizing s with
  | nil => rfl
  | cons e es ih => exact ih (e.apply s)

theorem applyAll_append (es es' : List Event) (s : State) :
    applyAll (es ++ es') s = applyAll es' (applyAll es s) := by
  simp only [applyAll_eq_foldl, List.foldl_append]

/-- Every event of the sequence is a byte write. -/
def OnlyWrites (es : List Event) : Prop := ∀ e ∈ es, ∃ (c : Word) (w : Byte), e = .write c w

/-- Every event of the sequence is a byte read. -/
def OnlyReads (es : List Event) : Prop := ∀ e ∈ es, ∃ c : Word, e = .read c

section Writes

variable {es : List Event} (hes : OnlyWrites es)
include hes

/-- Byte writes change the memory only. -/
theorem applyAll_writes (s : State) : applyAll es s = { s with mem := (applyAll es s).mem } := by
  induction es generalizing s with
  | nil => rfl
  | cons e es ih =>
    obtain ⟨⟨c, w, rfl⟩, htail⟩ := List.forall_mem_cons.mp hes
    exact ih htail (s.writeByte c w)

/-- Byte writes keep the canonical form. -/
theorem applyAll_writes_wf {s : State} (hs : s.mem.wf) : (applyAll es s).mem.wf := by
  induction es generalizing s with
  | nil => exact hs
  | cons e es ih =>
    obtain ⟨⟨c, w, rfl⟩, htail⟩ := List.forall_mem_cons.mp hes
    exact ih htail (wf_writeByte hs c w)

/-- Where all writes to an address write one value, that value is there after them, whatever their order; an address
that none writes to keeps its byte. -/
theorem readByte_applyAll_writes {b : Word} {stored : Option Byte}
    (hstored : ∀ w, .write b w ∈ es ↔ stored = some w) (s : State) :
    (applyAll es s).readByte b = stored.getD (s.readByte b) := by
  induction es using List.reverseRecOn with
  | nil =>
    cases stored with
    | none => rfl
    | some w => cases (hstored w).mpr rfl
  | append_singleton es e ih =>
    obtain ⟨c, w, rfl⟩ := hes e (by simp)
    rw [applyAll_append]
    refine (readByte_writeByte (applyAll es s) c w b).trans ?_
    by_cases hc : c = b
    · subst hc
      rw [if_pos rfl, (hstored w).mp (by simp), Option.getD_some]
    · rw [if_neg hc]
      refine ih (fun e he => hes e (List.mem_append_left _ he)) fun w' => ?_
      rw [← hstored w']
      simp [Ne.symm hc]

end Writes

section Reads

variable {es : List Event} (hes : OnlyReads es)
include hes

theorem applyAll_reads (s : State) : applyAll es s = s := by
  induction es with
  | nil => rfl
  | cons e es ih =>
    obtain ⟨⟨c, rfl⟩, htail⟩ := List.forall_mem_cons.mp hes
    exact ih htail

/-- Byte reads with nothing between all see the one state. -/
theorem seenBytes_reads (s : State) : seenBytes es s = es.flatMap fun e => (e.sees s).toList := by
  induction es with
  | nil => rfl
  | cons e es ih =>
    obtain ⟨⟨c, rfl⟩, htail⟩ := List.forall_mem_cons.mp hes
    rw [List.flatMap_cons, ← ih htail]
    rfl

end Reads

theorem writesFrom_eq_map (n : Nat) (vs : List Byte) :
    writesFrom n vs = (vs.zipIdx n).map fun x => .write (BitVec.ofNat 16 x.2) x.1 := by
  induction vs generalizing n with
  | nil => rfl
  | cons v vs ih => rw [writesFrom, ih, List.zipIdx_cons, List.map_cons]

theorem onlyWrites_writesFrom (n : Nat) (vs : List Byte) : OnlyWrites (writesFrom n vs) := by
  intro e he
  rw [writesFrom_eq_map] at he
  obtain ⟨x, -, rfl⟩ := List.mem_map.mp he
  exact ⟨_, _, rfl⟩

/-- The writes of a sequence that fits the array write each byte at its own address, and nothing else. -/
theorem write_mem_writesFrom_iff {vs : List Byte} (hvs : vs.length ≤ 65536) (b : Word) (w : Byte) :
    .write b w ∈ writesFrom 0 vs ↔ vs[b.toNat]? = some w := by
  rw [writesFrom_eq_map, List.mem_map]
  constructor
  · rintro ⟨⟨v, k⟩, hmem, heq⟩
    have hk : vs[k]? = some v := List.mk_mem_zipIdx_iff_getElem?.mp hmem
    have hlt : k < 65536 := lt_of_lt_of_le (List.getElem?_eq_some_iff.mp hk).1 hvs
    cases heq
    rwa [BitVec.toNat_ofNat, Nat.mod_eq_of_lt hlt]
  · intro hw
    exact ⟨(w, b.toNat), List.mk_mem_zipIdx_iff_getElem?.mpr hw, by simp⟩

/-- The byte writes of a load, in any order, store what the load stores. -/
theorem readByte_applyAll_load {data : List Byte} {es : List Event}
    (hes : es.Perm (writesFrom 0 (data.take 32768))) (s : State) (b : Word) :
    (applyAll es s).readByte b = (s.mem.load data).byteAt b.toNat := by
  have hlen : (data.take 32768).length ≤ 65536 := le_trans (List.length_take_le _ _) (by decide)
  have hwrites : OnlyWrites es := fun e he => onlyWrites_writesFrom _ _ e (hes.mem_iff.mp he)
  rw [byteAt_load]
  exact readByte_applyAll_writes hwrites (fun w => hes.mem_iff.trans (write_mem_writesFrom_iff hlen b w)) s

/-- The loop of R174 is the byte writes of the clamped image in rising order. -/
theorem foldl_writeByte_eq_applyAll (vs : List Byte) (s : State) :
    vs.zipIdx.foldl (fun u (x : Byte × Nat) => u.writeByte (BitVec.ofNat 16 x.2) x.1) s =
      applyAll (writesFrom 0 vs) s := by
  rw [applyAll_eq_foldl, writesFrom_eq_map, List.foldl_map]
  rfl

/-- Settles O37: the one-pass copy and the loop give canonical memories with the same bytes, which are the same. -/
theorem loadImageEqualsTheLoopOfByteWrites : Obligations.LoadImageEqualsTheLoopOfByteWrites := by
  intro s data hs
  have hwrites := onlyWrites_writesFrom 0 (data.take 32768)
  have hmem : s.mem.load data = (applyAll (writesFrom 0 (data.take 32768)) s).mem :=
    canonicalMemoriesWithEqualBytesAreEqual _ _ (Memory.wf_load hs data) (applyAll_writes_wf hwrites hs)
      fun b => (readByte_applyAll_load (List.Perm.refl _) s b).symm
  rw [foldl_writeByte_eq_applyAll, applyAll_writes hwrites, ← hmem]
  exact exec_loadImage data s

theorem onlyReads_of_splits {a : Word} {es : List Event} (h : SplitsInto (.memReadWord a) es) : OnlyReads es := by
  intro e he
  obtain rfl | rfl : e = .read a ∨ e = .read (nextAddr a) := by simpa using h.mem_iff.mp he
  · exact ⟨_, rfl⟩
  · exact ⟨_, rfl⟩

/-- The two reads of a word, in either order with nothing between, see its two bytes. -/
theorem seenBytes_of_splits {a : Word} {es : List Event} (h : SplitsInto (.memReadWord a) es) (s : State) :
    (seenBytes es s).Perm [(a, s.readByte a), (nextAddr a, s.readByte (nextAddr a))] := by
  rw [seenBytes_reads (onlyReads_of_splits h)]
  exact List.Perm.flatMap_right _ h

/-- The events of a split command do to registers and memory what the command does. -/
theorem applyAll_of_splits {i : Instr} {es : List Event} {s t : State} (hes : SplitsInto i es)
    (h : exec i s = .next t) :
    (applyAll es s).rf = t.rf ∧ ∀ a : Word, (applyAll es s).readByte a = t.readByte a := by
  cases i with
  | memWriteWord b v =>
    cases hes
    cases h
    exact ⟨rfl, fun _ => rfl⟩
  | memReadWord b =>
    rw [applyAll_reads (onlyReads_of_splits hes)]
    cases h
    exact ⟨rfl, fun _ => rfl⟩
  | loadImage data =>
    have hwrites : OnlyWrites es := fun e he => onlyWrites_writesFrom _ _ e (List.Perm.mem_iff hes |>.mp he)
    cases h
    exact ⟨by rw [applyAll_writes hwrites]; rfl, readByte_applyAll_load hes s⟩
  | _ =>
    -- every other command is the one event of itself
    cases hes
    rw [applyAll, Event.apply, h]
    exact ⟨rfl, fun _ => rfl⟩

/-- Settles O55: a split word write is the two stores in a row, a split load its writes in any order, a split word read
changes nothing, and every other command is one event. -/
theorem uninterruptedSplitEqualsTheCommand : Obligations.UninterruptedSplitEqualsTheCommand :=
  ⟨fun _ _ _ _ => applyAll_of_splits, fun _ _ s h => seenBytes_of_splits h s, fun _ _ => Iff.rfl⟩

end Sys2Proof.Proofs
end

section
/-! SUPPORT. Two agents (20_memory.md R69): the interleavings of a word write and a word read, and the half-written word
a reader may see. -/

namespace Sys2Proof.Proofs

open Sys2Proof Sys2Proof.Machine Sys2Proof.Statements

theorem seenBytes_append (es es' : List Event) (s : State) :
    seenBytes (es ++ es') s = seenBytes es s ++ seenBytes es' (applyAll es s) := by
  induction es generalizing s with
  | nil => rfl
  | cons e es ih => simp only [List.cons_append, seenBytes, applyAll, ih, List.append_assoc]

theorem seenBytes_writes {es : List Event} (hes : OnlyWrites es) (s : State) : seenBytes es s = [] := by
  induction es generalizing s with
  | nil => rfl
  | cons e es ih =>
    obtain ⟨⟨c, w, rfl⟩, htail⟩ := List.forall_mem_cons.mp hes
    exact ih htail _

/-- A byte is seen only by a read of its address. -/
theorem read_mem_of_mem_seenBytes {es : List Event} {b : Word} {x : Byte} {s : State}
    (h : (b, x) ∈ seenBytes es s) : .read b ∈ es := by
  induction es generalizing s with
  | nil => cases h
  | cons e es ih =>
    obtain hhead | htail := List.mem_append.mp h
    · cases e with
      | read c =>
        have hb : b = c := (Prod.mk.inj (List.mem_singleton.mp hhead)).1
        rw [hb]
        exact List.mem_cons_self
      | write | whole => cases hhead
    · exact List.mem_cons_of_mem e (ih htail)

theorem mem_of_interleaves {xs ys zs : List Event} (h : Interleaves xs ys zs) {e : Event} (he : e ∈ zs) :
    e ∈ xs ∨ e ∈ ys := by
  induction h with
  | none => cases he
  | left d _ ih =>
    obtain rfl | he := List.mem_cons.mp he
    · exact .inl List.mem_cons_self
    · exact (ih he).imp_left (List.mem_cons_of_mem d)
  | right d _ ih =>
    obtain rfl | he := List.mem_cons.mp he
    · exact .inr List.mem_cons_self
    · exact (ih he).imp_right (List.mem_cons_of_mem d)

/-- When the second agent's first event takes place, the first agent has performed some of its events, in order. -/
theorem interleaves_first_right {xs ys zs : List Event} {e : Event} (h : Interleaves xs (e :: ys) zs) :
    ∃ before after zs' : List Event,
      xs = before ++ after ∧ zs = before ++ e :: zs' ∧ Interleaves after ys zs' := by
  generalize hys : e :: ys = es at h
  induction h with
  | none => cases hys
  | left d _ ih =>
    obtain ⟨before, after, zs', hxs, hzs, hrest⟩ := ih hys
    exact ⟨d :: before, after, zs', by rw [hxs, List.cons_append], by rw [hzs, List.cons_append], hrest⟩
  | right d hrest _ =>
    cases hys
    exact ⟨[], _, _, rfl, rfl, hrest⟩

/-- All events of the second agent may take place before the one event of the first. -/
theorem interleaves_before_one (e : Event) (ys : List Event) : Interleaves [e] ys (ys ++ [e]) := by
  induction ys with
  | nil => exact .left e .none
  | cons y ys ih => exact .right y ih

/-- The reads of a word may take place between its two writes: they see the new low byte and the old high byte. -/
theorem reads_between_writes_see_half (s : State) (a v : Word) {rs : List Event}
    (hrs : SplitsInto (.memReadWord a) rs) :
    ∃ zs : List Event, Interleaves [.write a (lowByte v), .write (nextAddr a) (highByte v)] rs zs ∧
      (seenBytes zs s).Perm [(a, lowByte v), (nextAddr a, s.readByte (nextAddr a))] := by
  refine ⟨.write a (lowByte v) :: (rs ++ [.write (nextAddr a) (highByte v)]), .left _ (interleaves_before_one _ rs), ?_⟩
  have hseen := seenBytes_of_splits hrs (s.writeByte a (lowByte v))
  rw [readByte_writeByte_same, readByte_writeByte_other _ _ (nextAddr_ne a)] at hseen
  have hlast : seenBytes [.write (nextAddr a) (highByte v)] (applyAll rs (s.writeByte a (lowByte v))) = [] := rfl
  show (seenBytes (rs ++ _) (s.writeByte a (lowByte v))).Perm _
  rwa [seenBytes_append, hlast, List.append_nil]

/-- A reader that takes the high byte first and sees it new does so after both writes, and sees the low byte new. -/
theorem high_first_reader_sees_new_low {s : State} {a v : Word} {zs : List Event}
    (hold : s.readByte (nextAddr a) ≠ highByte v)
    (hzs : Interleaves [.write a (lowByte v), .write (nextAddr a) (highByte v)] [.read (nextAddr a), .read a] zs)
    (hseen : (nextAddr a, highByte v) ∈ seenBytes zs s) : (a, lowByte v) ∈ seenBytes zs s := by
  obtain ⟨before, after, zs', hws, rfl, hrest⟩ := interleaves_first_right hzs
  have hwrites : OnlyWrites (before ++ after) := by
    rw [← hws]
    simp [OnlyWrites]
  have hbefore : OnlyWrites before := fun e he => hwrites e (List.mem_append_left _ he)
  rw [seenBytes_append, seenBytes_writes hbefore, List.nil_append] at hseen ⊢
  have hhigh : (applyAll before s).readByte (nextAddr a) = highByte v := by
    obtain heq | htail := List.mem_cons.mp hseen
    · exact (Prod.mk.inj heq).2.symm
    · obtain hwrite | hread := mem_of_interleaves hrest (read_mem_of_mem_seenBytes htail)
      · obtain ⟨_, _, heq⟩ := hwrites _ (List.mem_append_right _ hwrite)
        cases heq
      · exact absurd (Event.read.inj (List.mem_singleton.mp hread)) (nextAddr_ne a)
  obtain ⟨rfl, -⟩ | ⟨before, rfl, htail⟩ := List.cons_eq_append_iff.mp hws
  · exact absurd hhigh hold
  obtain ⟨rfl, -⟩ | ⟨rfl, rfl⟩ := List.singleton_eq_append_iff.mp htail
  · exact absurd ((readByte_writeByte_other s _ (nextAddr_ne a)).symm.trans hhigh) hold
  · obtain ⟨_, _, _, hnil, rfl, -⟩ := interleaves_first_right hrest
    obtain ⟨rfl, -⟩ := List.append_eq_nil_iff.mp hnil.symm
    refine List.mem_cons_of_mem _ (List.mem_cons.mpr (.inl ?_))
    exact congrArg (a, ·) (readByte_writeWord_low s a v).symm

/-- Settles O56: the half-written word is seen between the two writes, and a new high byte only after both. -/
theorem concurrentReaderMaySeeAHalfWrittenWord : Obligations.ConcurrentReaderMaySeeAHalfWrittenWord := by
  intro s a v ws rs hws hrs
  cases hws
  have hstore (c : Word) (w : Byte) (b : Word) :
      (s.writeByte c w).readByte b = if b = c then w else s.readByte b :=
    (readByte_writeByte s c w b).trans (if_congr eq_comm rfl rfl)
  refine ⟨⟨_, _, rfl, hstore a _, hstore (nextAddr a) _⟩, List.Perm.refl _, List.Perm.swap _ _ _,
    reads_between_writes_see_half s a v hrs, ?_⟩
  rintro rfl hold zs hzs hseen
  exact high_first_reader_sees_new_low hold hzs hseen

end Sys2Proof.Proofs
end
